-- ==== Sys2Proof/Word.lean ====
section
/-! DEFINITION. The words of the TC-1208 and its fixed-size banks of like things.
Bit vectors stand for what the manual adds modulo a power of two or masks: link bytes, device time, the
epoch, sequence numbers, decoded positions and the CRC.  Counts that never wrap are `Nat`. -/

namespace Sys2Proof

/-- One byte of the host link. -/
abbrev Byte := BitVec 8

/-- Device time: 48 bits, all arithmetic modulo 2^48 (R50). -/
abbrev Time := BitVec 48

/-- The time epoch: 8 bits, wrapping (R51). -/
abbrev Epoch := BitVec 8

/-- A report sequence number: 16 bits, compared modulo 65536 (R143). -/
abbrev Seq := BitVec 16

/-- A decoded position: 32-bit two's complement, wrapping (R112, R115). -/
abbrev Position := BitVec 32

/-- A task slot T0 to T15. -/
abbrev Slot := Fin 16

/-- An input line IN0 to IN11. -/
abbrev InLine := Fin 12

/-- An output line OUT0 to OUT7. -/
abbrev OutLine := Fin 8

/-- A program P0 to P7 of the segment store. -/
abbrev Prog := Fin 8

/-- A fixed number `n` of like things, in order: the sixteen slots, the twelve inputs, the eight outputs, the
eight programs. -/
structure Bank (α : Type) (n : Nat) where
  cells : List α
  size_eq : cells.length = n
deriving DecidableEq, Repr

/-- `n` copies of one thing. -/
def Bank.fill {α : Type} (n : Nat) (a : α) : Bank α n := ⟨List.replicate n a, List.length_replicate⟩

/-- The thing at place `i`. -/
def Bank.get {α : Type} {n : Nat} (b : Bank α n) (i : Fin n) : α :=
  b.cells[i.val]'(by rw [b.size_eq]; exact i.isLt)

/-- The bank with place `i` replaced. -/
def Bank.set {α : Type} {n : Nat} (b : Bank α n) (i : Fin n) (a : α) : Bank α n :=
  ⟨b.cells.set i.val a, by rw [List.length_set]; exact b.size_eq⟩

/-- The bank whose place `i` holds `f i`. -/
def Bank.build {α : Type} (n : Nat) (f : Fin n → α) : Bank α n := ⟨List.ofFn f, List.length_ofFn⟩

/-- Every place changed by `f`. -/
def Bank.map {α β : Type} {n : Nat} (f : α → β) (b : Bank α n) : Bank β n :=
  ⟨b.cells.map f, by rw [List.length_map]; exact b.size_eq⟩

/-- The bank with place `i` changed by `f`. -/
def Bank.modify {α : Type} {n : Nat} (b : Bank α n) (i : Fin n) (f : α → α) : Bank α n :=
  b.set i (f (b.get i))

/-- Every number below `n`, in rising order. -/
def indices (n : Nat) : List (Fin n) := List.ofFn (fun i : Fin n => i)

/-- `v` as a number below `n`, when it is one. -/
def finOf? (n v : Nat) : Option (Fin n) := if h : v < n then some ⟨v, h⟩ else none

end Sys2Proof
end

