-- ==== Sys2Proof/Syntax.lean ====
section
/-! DEFINITION. The commands of the TC-1208: one constructor for each row of spec/opcode_table.json.  Each is one
whole step of one block (spec/95).  A request row is the interpreter's event of taking the oldest request; its
operands are that frame's payload, so the constructor has none of its own (log 1). -/

namespace Sys2Proof

/-- An electrical level: a pin sample, an output level, an idle level (R194). -/
inductive Level where
  | low
  | high
deriving DecidableEq, Repr

/-- What begins a hard reset (R191). -/
inductive HardCause where
  | power
  | pin
deriving DecidableEq, Repr

/-- The strap pins BR1 and BR0, sampled at the end of a hard reset and at a full reset (R173). -/
structure Straps where
  br1 : Level
  br0 : Level
deriving DecidableEq, Repr

/-- How the report queue takes offers at the end of an engine's event or of a START_GROUP (R138, R147; logs 7 and 8).  In
`order` each mention of a slot is one turn, at which the queue takes that slot's oldest waiting offer.  The offers then left
stay waiting where `leave` is yes, but for a START_GROUP's own; where it is no, they are taken in the order they were made. -/
structure Turns where
  order : List Slot
  leave : Bool
deriving DecidableEq, Repr

/-- The commands. -/
inductive Instr where
  | getIdentity
  | getLinkStatus
  | resetDeviceFull
  | resetDeviceTasks
  | openSessionClean
  | openSessionResume
  | closeSession
  | ackReports
  | resendReports
  | setTick
  | getTime
  | configInput
  | configOutput
  | setOutputActive
  | setOutputIdle
  | setOutputRelease
  | getLines
  | loadProgram
  | appendProgram
  | eraseProgram
  | getProgram
  | defineTask
  | deleteTask
  | armTask
  | disarmTask
  | startTask
  | startGroup (turns : Turns)
  | stopTaskGraceful
  | stopTaskAbort
  | queryTask
  | readCount
  | setPosition
  | unknownRequest
  | rxByte (byte : Byte)
  | frameAbandoned
  | responsePlaced
  | frameBoundary
  | fullReset (straps : Straps)
  | hardReset (cause : HardCause)
  | hardResetEnd (straps : Straps)
  | sampleInstant (levels : Bank Level 12)
  | taskUpdate (slot : Slot) (turns : Turns)
  | taskClock (slot : Slot) (turns : Turns)
  | deadlineExpiry (slot : Slot) (turns : Turns)
  | markExpiry (line : OutLine)
  | tickBoundary
  | idleArbiterChoice
  | setOutput
  | stopTask
  | resetDevice
  | openSession
deriving DecidableEq, Repr

end Sys2Proof
end

