-- ==== Sys2Proof/WellFormed.lean ====
section
/-! DEFINITION. Which commands are well formed.  Slots, lines, levels and bytes are in range by their types, and any order of
the queue's turns is one, so there is nothing left to check. -/

namespace Sys2Proof

/-- Every command is well formed: its operands are in range by their types. -/
def Instr.wellFormed (_ : Instr) : Bool := true

end Sys2Proof
end

