-- ==== Sys2Proof/Config.lean ====
section
/-! DEFINITION. What this revision of the part fixes: its identity data (R190) and its capacities.  The manual leaves
no value of a run open that the model would have to draw freely: the orders it leaves open are operands of the
commands (log 7). -/

namespace Sys2Proof.Config

/-- Vendor code (R190). -/
def vendorCode : Nat := 0x7D31
/-- Part code (R190). -/
def partCode : Nat := 0x1208
/-- Silicon revision (R190). -/
def siliconRevision : Nat := 1
/-- Segment cells of the pool (R62). -/
def poolCells : Nat := 256
/-- Entries of the report queue (R145). -/
def queueEntries : Nat := 64
/-- The greatest occupancy that still admits an ordinary report (R145). -/
def admitLimit : Nat := 62
/-- Entries of the request queue and of the response queue (R182). -/
def linkEntries : Nat := 4
/-- Claims one input line may carry (R35). -/
def claimPlaces : Nat := 4
/-- The greatest LEN of a frame (R174). -/
def maxLen : Nat := 120
/-- Segments one program may hold (R62). -/
def maxProgram : Nat := 128
/-- Segments one request or response carries at most (R65, R69). -/
def maxBatch : Nat := 28
/-- The greatest window of a session (R160). -/
def maxWindow : Nat := 32
/-- The greatest value of the 32-bit counts (R85). -/
def maxCount : Nat := 4294967295
/-- The greatest value of the 16-bit saturating counters. -/
def maxCount16 : Nat := 65535

end Sys2Proof.Config
end

