-- ==== Sys2Proof/Machine/State.lean ====
section
/-! DEFINITION. The state of the TC-1208, block by block, as plain data, and its value after reset.  Every field cites the
rule of spec/ that names it.  What the fields do is in the other files of Machine/. -/

namespace Sys2Proof.Machine

/-! ### Values named by the manual -/

/-- A conditioned level (R32). -/
inductive Cond where
  | inactive
  | active
deriving DecidableEq, Repr

/-- Which electrical level is a line's active level (R32). -/
inductive Polarity where
  | activeHigh
  | activeLow
deriving DecidableEq, Repr

/-- The use a task makes of an input line (R35), in the order of R46. -/
inductive InRole where
  | clock
  | trigger
  | gate
  | signal
  | window
  | phaseA
  | phaseB
  | index
  | kick
deriving DecidableEq, Repr

/-- The use a task makes of an output line (R39). -/
inductive OutRole where
  | wave
  | mark
  | alert
deriving DecidableEq, Repr

/-- The party whose events drive an output line (R39). -/
inductive Owner where
  | none
  | host
  | task (slot : Slot) (role : OutRole)
deriving DecidableEq, Repr

/-- A task's place in its life cycle (R2); a FREE slot holds no record. -/
inductive TaskState where
  | idle
  | armed
  | running
  | stopping
  | done
  | faulted
deriving DecidableEq, Repr

/-- The task clock source (R1, R56). -/
inductive ClockSource where
  | timebase (divider : Nat)
  | line (input : InLine)
deriving DecidableEq, Repr

/-- The trigger: a line and the conditioned level its edge leads to, ACTIVE_EDGE or INACTIVE_EDGE (R15). -/
structure Trigger where
  line : InLine
  edge : Cond
deriving DecidableEq, Repr

/-- What starts a task from ARMED, besides START_TASK and START_GROUP (R1). -/
inductive StartWhen where
  | host
  | trigger
  | after (slot : Slot)
deriving DecidableEq, Repr

/-- The gate: a line and the conditioned level at which it is open, OPEN_WHEN_ACTIVE or OPEN_WHEN_INACTIVE (R17). -/
structure Gate where
  line : InLine
  openWhen : Cond
deriving DecidableEq, Repr

/-- Where a task goes when a run completes (R20). -/
inductive Repeat where
  | once
  | rearm
  | continuous
deriving DecidableEq, Repr

/-- What a trigger edge does to a running task (R15). -/
inductive Policy where
  | ignore
  | restart
  | fault
deriving DecidableEq, Repr

/-- Whether the loss of one of a task's reports faults it (R25). -/
inductive ReportClass where
  | normal
  | critical
deriving DecidableEq, Repr

/-- A task's MARK output and the length of its pulse in ticks (R43). -/
structure Mark where
  line : OutLine
  ticks : Nat
deriving DecidableEq, Repr

/-- Why a task is FAULTED (R24). -/
inductive FaultReason where
  | triggerOverrun
  | reportLost
deriving DecidableEq, Repr

/-- What started a run (R12). -/
inductive StartCause where
  | host
  | group
  | trigger
  | after
deriving DecidableEq, Repr

/-- How a task came to DONE (R26). -/
inductive Ending where
  | complete
  | stopped
  | aborted
deriving DecidableEq, Repr

/-- The cause of a reset (R140, R190). -/
inductive ResetCause where
  | power
  | pin
  | full
  | tasks
deriving DecidableEq, Repr

/-- The phase of a measurement: AWAITING, or counting (MEASURING of R94, OPEN of R103). -/
inductive Phase where
  | awaiting
  | counting
deriving DecidableEq, Repr

/-- Which edge closes a span (R93). -/
inductive SpanMode where
  | pulse
  | period
deriving DecidableEq, Repr

/-- What opens and closes a window (R102). -/
inductive WindowSource where
  | line (input : InLine)
  | duration (clocks : Nat)
deriving DecidableEq, Repr

/-- Which phase changes are steps (R115). -/
inductive Resolution where
  | x1
  | x2
  | x4
deriving DecidableEq, Repr

/-- What an index event does (R119). -/
inductive IndexAction where
  | none
  | report
  | load
  | loadFirst
deriving DecidableEq, Repr

/-- The direction of a step (R114). -/
inductive Direction where
  | up
  | down
deriving DecidableEq, Repr

/-- The two violations of a deadline (R131). -/
inductive Violation where
  | early
  | late
deriving DecidableEq, Repr

/-! ### Task engines: kind parameters and run state -/

/-- PULSE_TRAIN parameters (R70). -/
structure TrainParams where
  wave : OutLine
  program : Prog
  loops : Nat
deriving DecidableEq, Repr

/-- PULSE_TRAIN run state (R72). -/
structure TrainRun where
  index : Nat
  remaining : Nat
  loopsDone : Nat
  waiting : Bool
deriving DecidableEq, Repr

/-- EVENT_COUNT parameters (R87). -/
structure CountParams where
  signal : InLine
  limit : Nat
deriving DecidableEq, Repr

/-- SPAN parameters (R93). -/
structure SpanParams where
  signal : InLine
  mode : SpanMode
deriving DecidableEq, Repr

/-- SPAN run state (R94). -/
structure SpanRun where
  phase : Phase
  count : Nat
  spanStart : Time
deriving DecidableEq, Repr

/-- WINDOW_COUNT parameters (R102). -/
structure WindowParams where
  signal : InLine
  source : WindowSource
deriving DecidableEq, Repr

/-- WINDOW_COUNT run state (R103). -/
structure WindowRun where
  phase : Phase
  count : Nat
  length : Nat
deriving DecidableEq, Repr

/-- POSITION parameters (R110).  An index phase that is absent is ANY; otherwise it gives the levels of PHASE_A and
PHASE_B. -/
structure PositionParams where
  phaseA : InLine
  phaseB : InLine
  index : Option InLine
  resolution : Resolution
  invert : Bool
  preset : Position
  action : IndexAction
  indexPhase : Option (Cond × Cond)
  compare : Option Position
deriving DecidableEq, Repr

/-- POSITION run state (R112). -/
structure PositionRun where
  position : Position
  phaseErrors : Nat
  indexSeen : Bool
  indexLevel : Bool
deriving DecidableEq, Repr

/-- DEADLINE parameters (R126). -/
structure DeadlineParams where
  kick : InLine
  minimum : Nat
  maximum : Nat
  alert : Option OutLine
deriving DecidableEq, Repr

/-- DEADLINE run state (R127). -/
structure DeadlineRun where
  elapsed : Nat
  expiryDue : Bool
  alert : Bool
deriving DecidableEq, Repr

/-- The kind parameters of a task (R1). -/
inductive KindParams where
  | pulseTrain (p : TrainParams)
  | eventCount (p : CountParams)
  | span (p : SpanParams)
  | windowCount (p : WindowParams)
  | position (p : PositionParams)
  | deadline (p : DeadlineParams)
deriving DecidableEq, Repr

/-- A task's kind: its parameters together with the run state of that kind (R1). -/
inductive Engine where
  | pulseTrain (p : TrainParams) (r : TrainRun)
  | eventCount (p : CountParams) (count : Nat)
  | span (p : SpanParams) (r : SpanRun)
  | windowCount (p : WindowParams) (r : WindowRun)
  | position (p : PositionParams) (r : PositionRun)
  | deadline (p : DeadlineParams) (r : DeadlineRun)
deriving DecidableEq, Repr

/-- The fields common to all kinds that DEFINE_TASK gives (R1). -/
structure Common where
  clock : ClockSource
  trigger : Option Trigger
  start : StartWhen
  gate : Option Gate
  repeats : Repeat
  policy : Policy
  reportClass : ReportClass
  reportStart : Bool
  mark : Option Mark
deriving DecidableEq, Repr

/-- The record of a slot that is not FREE (R1), with the task clock record of R56.  `clockDue` is yes between the tick
boundary at which a task clock falls and the engine's event of taking it (log 5). -/
structure Task where
  state : TaskState
  held : Bool
  common : Common
  engine : Engine
  runCount : Nat
  overrunCount : Nat
  faultReason : Option FaultReason
  startTime : Time
  tickPhase : Nat
  clockDue : Bool
deriving DecidableEq, Repr

/-- One task's view of one sample instant's update (R34): the conditioned changes on its claimed lines, each with the
level changed to; the levels of all its claimed lines after the instant; the device time of the instant. -/
structure View where
  changes : List (InLine × Cond)
  levels : List (InLine × Cond)
  time : Time
deriving DecidableEq, Repr

/-- The task table: the sixteen slots, `none` for FREE (R1), and each slot's update that its engine has not yet
taken (R37). -/
structure TaskTable where
  slots : Bank (Option Task) 16
  updates : Bank (Option View) 16
deriving DecidableEq, Repr

/-! ### The line unit -/

/-- A conditioner record (R31). -/
structure Input where
  polarity : Polarity
  filter : Nat
  raw : Level
  cond : Cond
  candidate : Option Nat
  claims : List (Slot × InRole)
deriving DecidableEq, Repr

/-- An output record (R39). -/
structure Output where
  idle : Level
  owner : Owner
  level : Level
  markEnd : Option Time
deriving DecidableEq, Repr

/-- The line unit.  `sampled` is no from a hard or full reset until the first sample instant after it (R47). -/
structure LineUnit where
  inputs : Bank Input 12
  outputs : Bank Output 8
  sampled : Bool
deriving DecidableEq, Repr

/-! ### The timebase and the segment store -/

/-- The tick rate by its rate code (R49). -/
inductive TickRate where
  | quarterMicro
  | micro
  | tenMicro
  | hundredMicro
deriving DecidableEq, Repr

/-- The timebase record (R49). -/
structure Timebase where
  rate : TickRate
  time : Time
  epoch : Epoch
deriving DecidableEq, Repr

/-- A segment (R63). -/
structure Segment where
  level : Cond
  duration : Nat
  reportEnd : Bool
  wait : Bool
deriving DecidableEq, Repr

/-- Where a program stands in loading (R62). -/
inductive ProgState where
  | empty
  | loading
  | sealed
deriving DecidableEq, Repr

/-- A program record (R62); its length is the length of its segment list, and `loading` is the state OPEN. -/
structure Program where
  state : ProgState
  segments : List Segment
  refCount : Nat
deriving DecidableEq, Repr

/-! ### The report queue and delivery -/

/-- A report kind with its values (R140).  The open field of a GAP stands with its count (R139). -/
inductive Report where
  | deviceReset (cause : ResetCause)
  | gap (count : Nat) (isOpen : Bool)
  | taskStarted (cause : StartCause)
  | taskDone (ending : Ending) (final : BitVec 32) (runCount overrunCount : Nat)
  | taskFault (reason : FaultReason) (value : BitVec 32)
  | taskRestarted (partialValue : BitVec 32) (overrunCount : Nat)
  | trainEnd (loopsDone : Nat)
  | segmentEnd (index loopsRemaining : Nat)
  | countLimit (limit crossings : Nat)
  | spanResult (count : Nat) (spanStart : Time) (overrange : Bool)
  | windowResult (count length : Nat)
  | positionIndex (before after : Position)
  | positionCompare (position : Position) (direction : Direction)
  | phaseError (position : Position) (count : Nat)
  | deadlineViolation (type : Violation) (elapsed : Nat)
deriving DecidableEq, Repr

/-- Who a report comes from (R139): a slot, or DEVICE. -/
inductive Source where
  | device
  | slot (k : Slot)
deriving DecidableEq, Repr

/-- Whether an entry has been sent (R139). -/
inductive Delivery where
  | pending
  | sent
deriving DecidableEq, Repr

/-- A report-queue entry (R139). -/
structure Entry where
  seq : Seq
  delivery : Delivery
  report : Report
  source : Source
  epoch : Epoch
  time : Time
deriving DecidableEq, Repr

/-- The report queue, oldest entry first (R142), and the session record (R157): `session` is `none` while CLOSED and
`some w` while OPEN with window `w`. -/
structure ReportQueue where
  entries : List Entry
  nextSeq : Seq
  lostCount : Nat
  session : Option Nat
deriving DecidableEq, Repr

/-- A report that the queue has not yet taken: the slot that offers it, the class of its task and the report (R138). -/
structure Offer where
  slot : Slot
  reportClass : ReportClass
  report : Report
deriving DecidableEq, Repr

/-- An event whose offers the queue has not all taken, with the epoch and device time of the event (R138, R147; log 8).
The offers of `own` are taken in this order, and then those of `free` in any order.  `lost` names the slots of the
CRITICAL tasks of which the queue has refused a report of this event; they fault at its end (R25, R154). -/
structure OpenEvent where
  epoch : Epoch
  time : Time
  own : List Offer
  free : List Offer
  lost : List Slot
deriving DecidableEq, Repr

/-! ### The host link controller and the interpreter -/

/-- A good frame in the request queue (R182); LEN is the length of its payload. -/
structure Frame where
  type : Byte
  tag : Byte
  payload : List Byte
deriving DecidableEq, Repr

/-- A frame the part sends, in the response queue or held by the interpreter (R185).  `endsInFullReset` is yes for the
OK response of RESET_DEVICE with scope FULL, at the end of whose transmission the full reset takes place (R192). -/
structure OutFrame where
  type : Byte
  tag : Byte
  payload : List Byte
  endsInFullReset : Bool
deriving DecidableEq, Repr

/-- The transmitter's own copy of the frame in transmission, from SYNC to the last CRC byte (R187). -/
structure Transmission where
  bytes : List Byte
  endsInFullReset : Bool
deriving DecidableEq, Repr

/-- The receiver's phase with the frame being collected (R176): in BODY, LEN, the bytes after LEN so far and the
running CRC. -/
inductive Receiver where
  | hunting
  | length
  | body (len : Nat) (bytes : List Byte) (crc : BitVec 16)
deriving DecidableEq, Repr

/-- The interpreter (R183): free; waiting with a response that found no place; stopped by RESET_DEVICE FULL, with its
OK response where that found no place. -/
inductive Interpreter where
  | free
  | waiting (response : OutFrame)
  | stopped (response : Option OutFrame)
deriving DecidableEq, Repr

/-- The host link controller and the request interpreter (R173 to R193). -/
structure Link where
  receiver : Receiver
  requests : List Frame
  responses : List OutFrame
  interpreter : Interpreter
  transmission : Option Transmission
  crcErrors : Nat
  oversizeFrames : Nat
  abandonedFrames : Nat
  droppedFrames : Nat
  opened : Bool
  lastReset : ResetCause
  rate : Fin 4
deriving DecidableEq, Repr

/-! ### The whole part -/

/-- The state of the part.  `pending` is the queue of commands not yet taken; `inReset` is the cause of a hard reset
that has begun and not ended (R191); `events` holds the events whose offers the queue has not all taken, oldest first
(R138, R147; log 8). -/
structure State where
  pending : List Instr
  inReset : Option HardCause
  tasks : TaskTable
  lines : LineUnit
  timebase : Timebase
  programs : Bank Program 8
  reports : ReportQueue
  events : List OpenEvent
  link : Link
deriving DecidableEq, Repr

/-- Reasons a step could stop with a fault.  There is none: no rule of the manual stops the part (a task fault is a
state of its slot, R24; a damaged frame is counted, R178), so nothing raises one, and that is neither safe nor unsafe. -/
inductive Fault where
deriving DecidableEq, Repr

/-- Reasons a step could be refused. -/
inductive Refusal where
  /-- The command of this mnemonic has no meaning yet.  Raised by an arm of exec alone; safe.  No arm raises it: every
  command has its meaning. -/
  | notModelled (mnemonic : String)
deriving DecidableEq, Repr

/-! ### The state after reset -/

/-- An input line after a hard reset (R47); its raw and conditioned levels before the first sample instant are the
model's choice (DESIGN CHOICE, log 9). -/
def Input.reset : Input :=
  { polarity := .activeHigh, filter := 0, raw := .low, cond := .inactive, candidate := none, claims := [] }

/-- An output line after a hard reset (R47). -/
def Output.reset : Output := { idle := .low, owner := .none, level := .low, markEnd := none }

/-- A program after a hard reset (R84). -/
def Program.reset : Program := { state := .empty, segments := [], refCount := 0 }

/-- The part at the end of a power-on reset (R29, R47, R61, R84, R155, R158, R191), with the straps giving link rate
code 0 (DESIGN CHOICE, log 10) and no command waiting. -/
def State.reset : State where
  pending := []
  inReset := none
  tasks := { slots := Bank.fill 16 none, updates := Bank.fill 16 none }
  lines := { inputs := Bank.fill 12 Input.reset, outputs := Bank.fill 8 Output.reset, sampled := false }
  timebase := { rate := .micro, time := 0, epoch := 0 }
  programs := Bank.fill 8 Program.reset
  reports :=
    { entries :=
        [{ seq := 0, delivery := .pending, report := .deviceReset .power, source := .device, epoch := 0, time := 0 }]
      nextSeq := 1
      lostCount := 0
      session := none }
  events := []
  link :=
    { receiver := .hunting
      requests := []
      responses := []
      interpreter := .free
      transmission := none
      crcErrors := 0
      oversizeFrames := 0
      abandonedFrames := 0
      droppedFrames := 0
      opened := false
      lastReset := .power
      rate := 0 }

end Sys2Proof.Machine
end

