-- ==== Sys2Proof/Machine/Flags.lean ====
section
/-! DEFINITION. The small computations every block shares: levels and polarity, saturating counters, the status codes of
a response, and the yes-or-no conditions the rules read from a record (running, claimed, owned, open). -/

namespace Sys2Proof.Machine

/-! ### Levels -/

/-- The opposite electrical level; a line's active level is the opposite of its idle level (R39). -/
def otherLevel : Level → Level
  | .low => .high
  | .high => .low

/-- The other conditioned level (R33). -/
def Cond.other : Cond → Cond
  | .inactive => .active
  | .active => .inactive

/-- The conditioned level a raw level stands for under a polarity (R32). -/
def Polarity.condOf : Polarity → Level → Cond
  | .activeHigh, .high => .active
  | .activeHigh, .low => .inactive
  | .activeLow, .high => .inactive
  | .activeLow, .low => .active

/-- The qualified electrical level: the level a conditioned level stands for under a polarity (R32). -/
def Polarity.levelOf : Polarity → Cond → Level
  | .activeHigh, .active => .high
  | .activeHigh, .inactive => .low
  | .activeLow, .active => .low
  | .activeLow, .inactive => .high

/-! ### Saturating counters -/

/-- One more, stopping at `top` and staying there (00_scope, Saturating and wrapping counters). -/
def satSucc (top n : Nat) : Nat := if n < top then n + 1 else top

/-- One more on a 16-bit saturating counter: run count, overrun count, loops done, GAP count, lost_count, phase errors,
link counters. -/
def sat16 (n : Nat) : Nat := satSucc Config.maxCount16 n

/-! ### Status codes -/

/-- The status byte of a response (R195). -/
inductive Status where
  | ok
  | busy
  | unknownRequest
  | badLength
  | badParam
  | badState
  | lineInUse
  | outputOwned
  | claimsFull
  | noSpace
  | programInUse
  | noSession
  | badAck
deriving DecidableEq, Repr

/-- The code of a status (R195). -/
def Status.code : Status → Byte
  | .ok => 0x00
  | .busy => 0x01
  | .unknownRequest => 0x02
  | .badLength => 0x03
  | .badParam => 0x04
  | .badState => 0x05
  | .lineInUse => 0x06
  | .outputOwned => 0x07
  | .claimsFull => 0x08
  | .noSpace => 0x09
  | .programInUse => 0x0A
  | .noSession => 0x0B
  | .badAck => 0x0C

/-- What a request is answered with (R184): a status, and the data of an OK response. -/
structure Reply where
  status : Status
  data : List Byte
deriving DecidableEq, Repr

/-- OK without data. -/
def Reply.ok : Reply := ⟨.ok, []⟩

/-- OK with data. -/
def Reply.okWith (data : List Byte) : Reply := ⟨.ok, data⟩

/-- A refusal: the status alone (R184). -/
def Reply.refuse (st : Status) : Reply := ⟨st, []⟩

/-! ### Conditions read from a task record -/

/-- A run is in progress: RUNNING or STOPPING (R2). -/
def Task.inRun (t : Task) : Bool := t.state == .running || t.state == .stopping

/-- The engine acts on task clocks and working edges: a run in progress that is not held (R2, R18). -/
def Task.works (t : Task) : Bool := t.inRun && !t.held

/-- The task is ARMED and waits for a completion of slot `k` (R13). -/
def Task.awaitsCompletionOf (t : Task) (k : Slot) : Bool :=
  t.state == .armed && t.common.start == .after k

/-- The kind's principal value as one 32-bit value (R72, R85, R112, R127, R140). -/
def Engine.principal : Engine → BitVec 32
  | .pulseTrain _ r => BitVec.ofNat 32 r.loopsDone
  | .eventCount _ count => BitVec.ofNat 32 count
  | .span _ r => BitVec.ofNat 32 r.count
  | .windowCount _ r => BitVec.ofNat 32 r.count
  | .position _ r => r.position
  | .deadline _ r => BitVec.ofNat 32 r.elapsed

/-- The kind parameters of an engine (R1). -/
def Engine.params : Engine → KindParams
  | .pulseTrain p _ => .pulseTrain p
  | .eventCount p _ => .eventCount p
  | .span p _ => .span p
  | .windowCount p _ => .windowCount p
  | .position p _ => .position p
  | .deadline p _ => .deadline p

/-- The program a PULSE_TRAIN task names (R64). -/
def KindParams.program? : KindParams → Option Prog
  | .pulseTrain p => some p.program
  | .eventCount _ => none
  | .span _ => none
  | .windowCount _ => none
  | .position _ => none
  | .deadline _ => none

/-- A PULSE_TRAIN waits at a WAIT segment (R15, R77). -/
def Engine.waits : Engine → Bool
  | .pulseTrain _ r => r.waiting
  | .eventCount _ _ => false
  | .span _ _ => false
  | .windowCount _ _ => false
  | .position _ _ => false
  | .deadline _ _ => false

/-- The run can finish by itself, so that a graceful stop puts the task in STOPPING (R22). -/
def Engine.finishes : Engine → Bool
  | .pulseTrain _ _ => true
  | .eventCount _ _ => false
  | .span _ r => r.phase == .counting
  | .windowCount _ r => r.phase == .counting
  | .position _ _ => false
  | .deadline _ _ => false

/-- An expiry is due (R128). -/
def Engine.expiryDue : Engine → Bool
  | .pulseTrain _ _ => false
  | .eventCount _ _ => false
  | .span _ _ => false
  | .windowCount _ _ => false
  | .position _ _ => false
  | .deadline _ r => r.expiryDue

/-- The gate is closed at the levels `level` (R17); a task without a gate is never held. -/
def Task.gateClosed (t : Task) (level : InLine → Cond) : Bool :=
  match t.common.gate with
  | some g => level g.line != g.openWhen
  | none => false

/-- The index condition of R118 at the levels `level`. -/
def PositionParams.indexCondition (p : PositionParams) (level : InLine → Cond) : Bool :=
  match p.index with
  | none => false
  | some i =>
    level i == .active &&
      (match p.indexPhase with
       | none => true
       | some (a, b) => level p.phaseA == a && level p.phaseB == b)

/-! ### Conditions read from lines, entries and frames -/

/-- The output is owned by slot `k`, in any role (R39). -/
def Output.ownedBy (o : Output) (k : Slot) : Bool :=
  match o.owner with
  | .task j _ => j == k
  | .host => false
  | .none => false

/-- The output is owned by a task slot (R42). -/
def Output.taskOwned (o : Output) : Bool :=
  match o.owner with
  | .task _ _ => true
  | .host => false
  | .none => false

/-- The entry is SENT (R157). -/
def Entry.isSent (e : Entry) : Bool := e.delivery == .sent

/-- The entry is a GAP (R139). -/
def Entry.isGap (e : Entry) : Bool :=
  match e.report with
  | .gap _ _ => true
  | _ => false

/-- The entry is an open GAP (R148). -/
def Entry.isOpenGap (e : Entry) : Bool :=
  match e.report with
  | .gap _ isOpen => isOpen
  | _ => false

/-- The response the interpreter holds for want of a place (R183). -/
def Interpreter.held : Interpreter → Option OutFrame
  | .free => none
  | .waiting f => some f
  | .stopped f => f

end Sys2Proof.Machine
end

