-- ==== Sys2Proof/Machine/Operands.lean ====
section
/-! DEFINITION. The operands of the commands as bytes of the link, and back: field encodings and code tables (R194), frames
and their CRC (R174, R175, R195), which row of the table takes a frame (R196), the task record (R197), segments (R198),
line data (R199), task data (R200) and report records (R201). -/

namespace Sys2Proof.Machine

/-! ### Fields -/

/-- `n` bytes of a number, most significant first (R194). -/
def beBytes : Nat → Nat → List Byte
  | 0, _ => []
  | n + 1, v => BitVec.ofNat 8 (v / 256 ^ n) :: beBytes n v

/-- The number a list of bytes codes, most significant first (R194). -/
def beNat (bytes : List Byte) : Nat := bytes.foldl (fun acc b => acc * 256 + b.toNat) 0

/-- The byte at payload offset `i`; 0 beyond the end, which the length checks keep from being read. -/
def byteAt (p : List Byte) (i : Nat) : Byte := p.getD i 0

/-- The number in `width` bytes from payload offset `i` (R194). -/
def natAt (p : List Byte) (i width : Nat) : Nat := beNat ((p.drop i).take width)

/-- A flag as the part sends it (R194). -/
def flagByte (b : Bool) : Byte := if b then 0x01 else 0x00

/-- A flag that takes 00h as no and any other value as yes (R194). -/
def looseFlag (b : Byte) : Bool := b != 0x00

/-- A flag that accepts 00h and 01h alone (R194). -/
def strictFlag (b : Byte) : Option Bool :=
  if b = 0x00 then some false else if b = 0x01 then some true else none

/-- A slot number (R194). -/
def slotOf? (b : Byte) : Option Slot := finOf? 16 b.toNat

/-- An input line number (R194). -/
def inLineOf? (b : Byte) : Option InLine := finOf? 12 b.toNat

/-- An output line number (R194). -/
def outLineOf? (b : Byte) : Option OutLine := finOf? 8 b.toNat

/-- A program number (R65). -/
def progOf? (b : Byte) : Option Prog := finOf? 8 b.toNat

/-- The byte of a slot, line or program number. -/
def numByte {n : Nat} (i : Fin n) : Byte := BitVec.ofNat 8 i.val

/-- The code of an absent line (R194). -/
def absentLine : Byte := 0xFF

/-- An optional field: absent at FFh, otherwise read by `f` (R194). -/
def optField {α : Type} (f : Byte → Option α) (b : Byte) : Option (Option α) :=
  if b = absentLine then some none else (f b).map some

/-- The byte of an optional line. -/
def optLineByte {n : Nat} : Option (Fin n) → Byte
  | some l => numByte l
  | none => absentLine

/-! ### Named values (R194) -/

/-- Task state. -/
def TaskState.code : TaskState → Byte
  | .idle => 0x01
  | .armed => 0x02
  | .running => 0x03
  | .stopping => 0x04
  | .done => 0x05
  | .faulted => 0x06

/-- The state code of a FREE slot. -/
def freeCode : Byte := 0x00

/-- Kind. -/
def KindParams.code : KindParams → Byte
  | .pulseTrain _ => 0x01
  | .eventCount _ => 0x02
  | .span _ => 0x03
  | .windowCount _ => 0x04
  | .position _ => 0x05
  | .deadline _ => 0x06

/-- Electrical level. -/
def levelCode : Level → Byte
  | .low => 0x00
  | .high => 0x01

/-- Electrical level, received. -/
def levelOf? (b : Byte) : Option Level :=
  if b = 0x00 then some .low else if b = 0x01 then some .high else none

/-- Conditioned level. -/
def Cond.code : Cond → Byte
  | .inactive => 0x00
  | .active => 0x01

/-- Trigger edge: 00h ACTIVE_EDGE, 01h INACTIVE_EDGE; and gate sense: 00h OPEN_WHEN_ACTIVE, 01h OPEN_WHEN_INACTIVE. -/
def Cond.senseCode : Cond → Byte
  | .active => 0x00
  | .inactive => 0x01

/-- Trigger edge or gate sense, received. -/
def senseOf? (b : Byte) : Option Cond :=
  if b = 0x00 then some .active else if b = 0x01 then some .inactive else none

/-- Polarity. -/
def Polarity.code : Polarity → Byte
  | .activeHigh => 0x00
  | .activeLow => 0x01

/-- Polarity, received. -/
def polarityOf? (b : Byte) : Option Polarity :=
  if b = 0x00 then some .activeHigh else if b = 0x01 then some .activeLow else none

/-- Repeat. -/
def Repeat.code : Repeat → Byte
  | .once => 0x00
  | .rearm => 0x01
  | .continuous => 0x02

/-- Repeat, received. -/
def repeatOf? (b : Byte) : Option Repeat :=
  if b = 0x00 then some .once else if b = 0x01 then some .rearm else if b = 0x02 then some .continuous else none

/-- Overrun policy. -/
def Policy.code : Policy → Byte
  | .ignore => 0x00
  | .restart => 0x01
  | .fault => 0x02

/-- Overrun policy, received. -/
def policyOf? (b : Byte) : Option Policy :=
  if b = 0x00 then some .ignore else if b = 0x01 then some .restart else if b = 0x02 then some .fault else none

/-- Report class. -/
def ReportClass.code : ReportClass → Byte
  | .normal => 0x00
  | .critical => 0x01

/-- Report class, received. -/
def classOf? (b : Byte) : Option ReportClass :=
  if b = 0x00 then some .normal else if b = 0x01 then some .critical else none

/-- Fault reason, 00h absent. -/
def reasonCode : Option FaultReason → Byte
  | none => 0x00
  | some .triggerOverrun => 0x01
  | some .reportLost => 0x02

/-- Start cause. -/
def StartCause.code : StartCause → Byte
  | .host => 0x01
  | .group => 0x02
  | .trigger => 0x03
  | .after => 0x04

/-- Ending. -/
def Ending.code : Ending → Byte
  | .complete => 0x01
  | .stopped => 0x02
  | .aborted => 0x03

/-- Reset cause. -/
def ResetCause.code : ResetCause → Byte
  | .power => 0x01
  | .pin => 0x02
  | .full => 0x03
  | .tasks => 0x04

/-- Output owner and output role (R199). -/
def Owner.codes : Owner → List Byte
  | .none => [0xFF, 0x00]
  | .host => [0xFE, 0x00]
  | .task k .wave => [numByte k, 0x01]
  | .task k .mark => [numByte k, 0x02]
  | .task k .alert => [numByte k, 0x03]

/-- Input role. -/
def InRole.code : InRole → Byte
  | .clock => 0x01
  | .trigger => 0x02
  | .gate => 0x03
  | .signal => 0x04
  | .window => 0x05
  | .phaseA => 0x06
  | .phaseB => 0x07
  | .index => 0x08
  | .kick => 0x09

/-- Program state. -/
def ProgState.code : ProgState → Byte
  | .empty => 0x00
  | .loading => 0x01
  | .sealed => 0x02

/-- SPAN mode. -/
def SpanMode.code : SpanMode → Byte
  | .pulse => 0x00
  | .period => 0x01

/-- SPAN mode, received. -/
def spanModeOf? (b : Byte) : Option SpanMode :=
  if b = 0x00 then some .pulse else if b = 0x01 then some .period else none

/-- Measurement phase. -/
def Phase.code : Phase → Byte
  | .awaiting => 0x00
  | .counting => 0x01

/-- Resolution. -/
def Resolution.code : Resolution → Byte
  | .x1 => 0x00
  | .x2 => 0x01
  | .x4 => 0x02

/-- Resolution, received. -/
def resolutionOf? (b : Byte) : Option Resolution :=
  if b = 0x00 then some .x1 else if b = 0x01 then some .x2 else if b = 0x02 then some .x4 else none

/-- Index action. -/
def IndexAction.code : IndexAction → Byte
  | .none => 0x00
  | .report => 0x01
  | .load => 0x02
  | .loadFirst => 0x03

/-- Index action, received. -/
def indexActionOf? (b : Byte) : Option IndexAction :=
  if b = 0x00 then some .none else if b = 0x01 then some .report else if b = 0x02 then some .load
  else if b = 0x03 then some .loadFirst else none

/-- Index phase. -/
def indexPhaseCode : Option (Cond × Cond) → Byte
  | none => 0x00
  | some (.inactive, .inactive) => 0x01
  | some (.inactive, .active) => 0x02
  | some (.active, .inactive) => 0x03
  | some (.active, .active) => 0x04

/-- Index phase, received. -/
def indexPhaseOf? (b : Byte) : Option (Option (Cond × Cond)) :=
  if b = 0x00 then some none
  else if b = 0x01 then some (some (.inactive, .inactive))
  else if b = 0x02 then some (some (.inactive, .active))
  else if b = 0x03 then some (some (.active, .inactive))
  else if b = 0x04 then some (some (.active, .active))
  else none

/-- Direction. -/
def Direction.code : Direction → Byte
  | .up => 0x00
  | .down => 0x01

/-- Violation type. -/
def Violation.code : Violation → Byte
  | .early => 0x01
  | .late => 0x02

/-- Tick rate. -/
def TickRate.code : TickRate → Byte
  | .quarterMicro => 0x00
  | .micro => 0x01
  | .tenMicro => 0x02
  | .hundredMicro => 0x03

/-- Tick rate, received (R49, R52). -/
def tickRateOf? (b : Byte) : Option TickRate :=
  if b = 0x00 then some .quarterMicro else if b = 0x01 then some .micro else if b = 0x02 then some .tenMicro
  else if b = 0x03 then some .hundredMicro else none

/-- The link rate code the straps give, in the order of the strap table (R173). -/
def rateCodeOf (s : Straps) : Fin 4 :=
  match s.br1, s.br0 with
  | .low, .low => 0
  | .low, .high => 1
  | .high, .low => 2
  | .high, .high => 3

/-! ### CRC and frames -/

/-- One bit of the CRC: polynomial 1021h, most significant bit first (R175). -/
def crcShift (c : BitVec 16) : BitVec 16 := if c.msb then (c <<< 1) ^^^ 0x1021 else c <<< 1

/-- The running CRC after one more byte (R175). -/
def crcByte (c : BitVec 16) (b : Byte) : BitVec 16 :=
  crcShift (crcShift (crcShift (crcShift (crcShift (crcShift (crcShift (crcShift
    (c ^^^ (b.setWidth 16 <<< 8)))))))))

/-- The initial value of the CRC (R175). -/
def crcStart : BitVec 16 := 0xFFFF

/-- The CRC over some bytes (R175). -/
def crcOf (bytes : List Byte) : BitVec 16 := bytes.foldl crcByte crcStart

/-- SYNC (R174). -/
def syncByte : Byte := 0x5A

/-- The whole frame on the link, SYNC to CRC, high byte of the CRC first (R174, R195). -/
def frameBytes (type tag : Byte) (payload : List Byte) : List Byte :=
  let body := BitVec.ofNat 8 payload.length :: type :: tag :: payload
  syncByte :: body ++ beBytes 2 (crcOf body).toNat

/-- The TYPE of the response to a frame of TYPE `t` (R184). -/
def responseType (t : Byte) : Byte := if 0x01 ≤ t.toNat ∧ t.toNat ≤ 0x3F then t + 0x40 else 0x40

/-- The response frame that answers `f` with `r` (R184, R195). -/
def Frame.answer (f : Frame) (r : Reply) (endsInFullReset : Bool) : OutFrame :=
  { type := responseType f.type
    tag := f.tag
    payload := r.status.code :: r.data
    endsInFullReset := endsInFullReset }

/-- The reasons of a link notice (R180). -/
inductive Notice where
  | crcError
  | oversize
deriving DecidableEq, Repr

/-- The code of a notice reason (R194). -/
def Notice.code : Notice → Byte
  | .crcError => 0x01
  | .oversize => 0x02

/-- A link notice: TYPE C0h, TAG 00h, the reason byte (R180). -/
def noticeFrame (n : Notice) : OutFrame :=
  { type := 0xC0, tag := 0x00, payload := [n.code], endsInFullReset := false }

/-! ### Which request a frame is -/

/-- The row of the table that takes a frame: the assigned request code of its TYPE (R196), and for SET_OUTPUT,
STOP_TASK, RESET_DEVICE and OPEN_SESSION the value of its action, mode or scope byte where LEN is right. -/
inductive Request where
  | getIdentity
  | getLinkStatus
  | resetDeviceFull
  | resetDeviceTasks
  | resetDevice
  | openSessionClean
  | openSessionResume
  | openSession
  | closeSession
  | ackReports
  | resendReports
  | setTick
  | getTime
  | configInput
  | configOutput
  | setOutputActive
  | setOutputIdle
  | setOutputRelease
  | setOutput
  | getLines
  | loadProgram
  | appendProgram
  | eraseProgram
  | getProgram
  | defineTask
  | deleteTask
  | armTask
  | disarmTask
  | startTask
  | startGroup
  | stopTaskGraceful
  | stopTaskAbort
  | stopTask
  | queryTask
  | readCount
  | setPosition
  | unknown
deriving DecidableEq, Repr

/-- RESET_DEVICE by its scope (R192). -/
def resetRequest (p : List Byte) : Request :=
  if p.length ≠ 1 then .resetDevice
  else if byteAt p 0 = 0x00 then .resetDeviceFull
  else if byteAt p 0 = 0x01 then .resetDeviceTasks
  else .resetDevice

/-- OPEN_SESSION by its mode (R160). -/
def openRequest (p : List Byte) : Request :=
  if p.length ≠ 2 then .openSession
  else if byteAt p 1 = 0x00 then .openSessionClean
  else if byteAt p 1 = 0x01 then .openSessionResume
  else .openSession

/-- SET_OUTPUT by its action (R42). -/
def outputRequest (p : List Byte) : Request :=
  if p.length ≠ 2 then .setOutput
  else if byteAt p 1 = 0x00 then .setOutputIdle
  else if byteAt p 1 = 0x01 then .setOutputActive
  else if byteAt p 1 = 0x02 then .setOutputRelease
  else .setOutput

/-- STOP_TASK by its mode (R21). -/
def stopRequest (p : List Byte) : Request :=
  if p.length ≠ 2 then .stopTask
  else if byteAt p 1 = 0x00 then .stopTaskGraceful
  else if byteAt p 1 = 0x01 then .stopTaskAbort
  else .stopTask

/-- The request a frame of this TYPE and payload is (R183 check 1, R196). -/
def requestOf (type : Byte) (p : List Byte) : Request :=
  match type.toNat with
  | 0x01 => .getIdentity
  | 0x02 => .getLinkStatus
  | 0x03 => resetRequest p
  | 0x08 => openRequest p
  | 0x09 => .closeSession
  | 0x0A => .ackReports
  | 0x0B => .resendReports
  | 0x10 => .setTick
  | 0x11 => .getTime
  | 0x14 => .configInput
  | 0x15 => .configOutput
  | 0x16 => outputRequest p
  | 0x17 => .getLines
  | 0x1C => .loadProgram
  | 0x1D => .appendProgram
  | 0x1E => .eraseProgram
  | 0x1F => .getProgram
  | 0x20 => .defineTask
  | 0x21 => .deleteTask
  | 0x22 => .armTask
  | 0x23 => .disarmTask
  | 0x24 => .startTask
  | 0x25 => .startGroup
  | 0x26 => stopRequest p
  | 0x27 => .queryTask
  | 0x28 => .readCount
  | 0x29 => .setPosition
  | _ => .unknown

/-- The request an admitted frame is. -/
def Frame.request (f : Frame) : Request := requestOf f.type f.payload

/-! ### Segments (R198) -/

/-- The level code in bits 1 to 0 of the control byte. -/
def segmentLevel? (control : Byte) : Option Cond :=
  if control.extractLsb' 0 2 = 0#2 then some .inactive
  else if control.extractLsb' 0 2 = 1#2 then some .active
  else none

/-- One segment of four bytes; none for a level code that names no level or a duration of 0 (R65, R198). -/
def segmentOf? (b : List Byte) : Option Segment :=
  match segmentLevel? (byteAt b 0) with
  | none => none
  | some level =>
    if natAt b 1 3 = 0 then none
    else some { level := level, duration := natAt b 1 3, reportEnd := (byteAt b 0).getLsbD 2,
                wait := (byteAt b 0).getLsbD 3 }

/-- `n` segments of four bytes each; none where any of them is refused (R65 check 4). -/
def segmentsOf? : Nat → List Byte → Option (List Segment)
  | 0, _ => some []
  | n + 1, b =>
    match segmentOf? b, segmentsOf? n (b.drop 4) with
    | some s, some rest => some (s :: rest)
    | _, _ => none

/-- The control byte of a segment; bits 7 to 4 are 0. -/
def Segment.control (s : Segment) : Byte :=
  s.level.code ||| (if s.reportEnd then 0x04 else 0x00) ||| (if s.wait then 0x08 else 0x00)

/-- The four bytes of a segment. -/
def Segment.bytes (s : Segment) : List Byte := s.control :: beBytes 3 s.duration

/-! ### The task record (R197) -/

/-- A condition that must hold for a field to be accepted. -/
def require (b : Bool) : Option Unit := if b then some () else none

/-- The clock field: TIMEBASE with divider 1 to 65536, or LINE with a line (R5). -/
def clockOf? (p : List Byte) : Option ClockSource :=
  if byteAt p 2 = 0x00 then
    if 1 ≤ natAt p 4 3 ∧ natAt p 4 3 ≤ 65536 then some (.timebase (natAt p 4 3)) else none
  else if byteAt p 2 = 0x01 then (inLineOf? (byteAt p 3)).map .line
  else none

/-- The trigger field. -/
def triggerOf? (p : List Byte) : Option (Option Trigger) :=
  (optField inLineOf? (byteAt p 7)).bind fun l =>
    match l with
    | none => some none
    | some line => (senseOf? (byteAt p 8)).map fun e => some { line := line, edge := e }

/-- The gate field. -/
def gateOf? (p : List Byte) : Option (Option Gate) :=
  (optField inLineOf? (byteAt p 11)).bind fun l =>
    match l with
    | none => some none
    | some line => (senseOf? (byteAt p 12)).map fun e => some { line := line, openWhen := e }

/-- The start field: an AFTER slot out of range or the task's own slot is refused, and so is TRIGGER without a
trigger (R5). -/
def startOf? (k : Slot) (hasTrigger : Bool) (p : List Byte) : Option StartWhen :=
  if byteAt p 9 = 0x00 then some .host
  else if byteAt p 9 = 0x01 then if hasTrigger then some .trigger else none
  else if byteAt p 9 = 0x02 then
    (slotOf? (byteAt p 10)).bind fun m => if m = k then none else some (.after m)
  else none

/-- The mark field; length 0 is refused (R5). -/
def markOf? (p : List Byte) : Option (Option Mark) :=
  (optField outLineOf? (byteAt p 17)).bind fun l =>
    match l with
    | none => some none
    | some line => if natAt p 18 2 = 0 then none else some (some { line := line, ticks := natAt p 18 2 })

/-- The common fields of a task record for slot `k` (R5). -/
def commonOf? (k : Slot) (p : List Byte) : Option Common := do
  let clock ← clockOf? p
  let trigger ← triggerOf? p
  let start ← startOf? k trigger.isSome p
  let gate ← gateOf? p
  let repeats ← repeatOf? (byteAt p 13)
  let policy ← policyOf? (byteAt p 14)
  let reportClass ← classOf? (byteAt p 15)
  let mark ← markOf? p
  return { clock := clock, trigger := trigger, start := start, gate := gate, repeats := repeats, policy := policy,
           reportClass := reportClass, reportStart := looseFlag (byteAt p 16), mark := mark }

/-- PULSE_TRAIN (R70); a mark is refused (R5). -/
def trainOf? (c : Common) (p : List Byte) : Option KindParams := do
  require c.mark.isNone
  let wave ← outLineOf? (byteAt p 20)
  let program ← progOf? (byteAt p 21)
  return .pulseTrain { wave := wave, program := program, loops := natAt p 22 2 }

/-- EVENT_COUNT (R86, R87): a LINE clock and a limit of 0 are refused. -/
def countOf? (c : Common) (p : List Byte) : Option KindParams := do
  require (match c.clock with | .timebase _ => true | .line _ => false)
  let signal ← inLineOf? (byteAt p 20)
  require (natAt p 21 4 != 0)
  return .eventCount { signal := signal, limit := natAt p 21 4 }

/-- SPAN (R86, R93): a clock line that is the SIGNAL line is refused. -/
def spanOf? (c : Common) (p : List Byte) : Option KindParams := do
  let signal ← inLineOf? (byteAt p 20)
  require (c.clock != .line signal)
  let mode ← spanModeOf? (byteAt p 21)
  return .span { signal := signal, mode := mode }

/-- The window source (R102): a WINDOW line equal to the SIGNAL line, or to the clock line (R86), and a DURATION of 0
are refused. -/
def windowSourceOf? (c : Common) (signal : InLine) (p : List Byte) : Option WindowSource :=
  if byteAt p 21 = 0x00 then
    (inLineOf? (byteAt p 22)).bind fun w =>
      if w = signal then none else if c.clock = .line w then none else some (.line w)
  else if byteAt p 21 = 0x01 then
    if natAt p 23 4 = 0 then none else some (.duration (natAt p 23 4))
  else none

/-- WINDOW_COUNT (R86, R102). -/
def windowOf? (c : Common) (p : List Byte) : Option KindParams := do
  let signal ← inLineOf? (byteAt p 20)
  require (c.clock != .line signal)
  let source ← windowSourceOf? c signal p
  return .windowCount { signal := signal, source := source }

/-- POSITION (R5, R110, R111). -/
def positionOf? (c : Common) (p : List Byte) : Option KindParams := do
  require c.gate.isNone
  require (c.repeats == .once)
  require (c.clock == .timebase 1)
  let a ← inLineOf? (byteAt p 20)
  let b ← inLineOf? (byteAt p 21)
  let index ← optField inLineOf? (byteAt p 22)
  let resolution ← resolutionOf? (byteAt p 23)
  let invert ← strictFlag (byteAt p 24)
  let action ← indexActionOf? (byteAt p 29)
  let phase ← indexPhaseOf? (byteAt p 30)
  require (a != b)
  require (index != some a && index != some b)
  require (index.isSome || (action == .none && phase.isNone))
  return .position
    { phaseA := a, phaseB := b, index := index, resolution := resolution, invert := invert
      preset := BitVec.ofNat 32 (natAt p 25 4), action := action, indexPhase := phase
      compare := if looseFlag (byteAt p 31) then some (BitVec.ofNat 32 (natAt p 32 4)) else none }

/-- DEADLINE (R5, R126): a mark, a minimum of 4,294,967,295, a maximum not above the minimum and a clock line that is
the KICK line are refused. -/
def deadlineOf? (c : Common) (p : List Byte) : Option KindParams := do
  require c.mark.isNone
  let kick ← inLineOf? (byteAt p 20)
  require (c.clock != .line kick)
  require (natAt p 21 4 < Config.maxCount)
  require (natAt p 21 4 < natAt p 25 4)
  let alert ← optField outLineOf? (byteAt p 29)
  return .deadline { kick := kick, minimum := natAt p 21 4, maximum := natAt p 25 4, alert := alert }

/-- The kind parameters, by the kind byte (R5, R197). -/
def kindOf? (c : Common) (p : List Byte) : Option KindParams :=
  match (byteAt p 1).toNat with
  | 1 => trainOf? c p
  | 2 => countOf? c p
  | 3 => spanOf? c p
  | 4 => windowOf? c p
  | 5 => positionOf? c p
  | 6 => deadlineOf? c p
  | _ => none

/-- The outputs a record names, with their roles (R6). -/
def outputsOf (c : Common) (k : KindParams) : List (OutLine × OutRole) :=
  (match c.mark with
   | some m => [(m.line, OutRole.mark)]
   | none => []) ++
  (match k with
   | .pulseTrain p => [(p.wave, OutRole.wave)]
   | .deadline p =>
     (match p.alert with
      | some l => [(l, OutRole.alert)]
      | none => [])
   | .eventCount _ => []
   | .span _ => []
   | .windowCount _ => []
   | .position _ => [])

/-- A whole task record for slot `k`: step 3 of DEFINE_TASK but for the WAIT check, which reads the store (R5). -/
def recordOf? (k : Slot) (p : List Byte) : Option (Common × KindParams) := do
  let c ← commonOf? k p
  let kind ← kindOf? c p
  require (decide ((outputsOf c kind).map Prod.fst).Nodup)
  return (c, kind)

/-- The input claims a record needs, one per role (R6, R35). -/
def claimsOf (c : Common) (k : KindParams) : List (InLine × InRole) :=
  (match c.clock with
   | .line l => [(l, InRole.clock)]
   | .timebase _ => []) ++
  (match c.trigger with
   | some t => [(t.line, InRole.trigger)]
   | none => []) ++
  (match c.gate with
   | some g => [(g.line, InRole.gate)]
   | none => []) ++
  (match k with
   | .pulseTrain _ => []
   | .eventCount p => [(p.signal, InRole.signal)]
   | .span p => [(p.signal, InRole.signal)]
   | .windowCount p =>
     (p.signal, InRole.signal) ::
       (match p.source with
        | .line w => [(w, InRole.window)]
        | .duration _ => [])
   | .position p =>
     (p.phaseA, InRole.phaseA) :: (p.phaseB, InRole.phaseB) ::
       (match p.index with
        | some i => [(i, InRole.index)]
        | none => [])
   | .deadline p => [(p.kick, InRole.kick)])

/-- The required LEN of a DEFINE_TASK by its kind byte; none where the byte codes no kind and any LEN of 2 or more
passes (R196). -/
def defineLen? (kind : Byte) : Option Nat :=
  match kind.toNat with
  | 1 => some 24
  | 2 => some 25
  | 3 => some 22
  | 4 => some 27
  | 5 => some 36
  | 6 => some 30
  | _ => none

/-- The length check of DEFINE_TASK (R196). -/
def defineLenOk (p : List Byte) : Bool :=
  decide (2 ≤ p.length) &&
    (match defineLen? (byteAt p 1) with
     | some n => p.length == n
     | none => true)

/-- The length check of LOAD_PROGRAM and APPEND_PROGRAM (R196). -/
def segmentsLenOk (p : List Byte) : Bool :=
  decide (3 ≤ p.length) && p.length == 3 + 4 * (byteAt p 2).toNat

/-! ### Task data (R200) -/

/-- Task record offsets 1 to 19, an unused field as its fixed value (R197). -/
def Common.bytes (c : Common) (kind : KindParams) : List Byte :=
  kind.code ::
  (match c.clock with
   | .timebase d => 0x00 :: absentLine :: beBytes 3 d
   | .line l => 0x01 :: numByte l :: beBytes 3 0) ++
  (match c.trigger with
   | some t => [numByte t.line, t.edge.senseCode]
   | none => [absentLine, 0x00]) ++
  (match c.start with
   | .host => [0x00, 0xFF]
   | .trigger => [0x01, 0xFF]
   | .after m => [0x02, numByte m]) ++
  (match c.gate with
   | some g => [numByte g.line, g.openWhen.senseCode]
   | none => [absentLine, 0x00]) ++
  [c.repeats.code, c.policy.code, c.reportClass.code, flagByte c.reportStart] ++
  (match c.mark with
   | some m => numByte m.line :: beBytes 2 m.ticks
   | none => absentLine :: beBytes 2 0)

/-- The kind block, an unused field as its fixed value (R197). -/
def KindParams.bytes : KindParams → List Byte
  | .pulseTrain p => numByte p.wave :: numByte p.program :: beBytes 2 p.loops
  | .eventCount p => numByte p.signal :: beBytes 4 p.limit
  | .span p => [numByte p.signal, p.mode.code]
  | .windowCount p =>
    numByte p.signal ::
      (match p.source with
       | .line w => 0x00 :: numByte w :: beBytes 4 0
       | .duration d => 0x01 :: absentLine :: beBytes 4 d)
  | .position p =>
    [numByte p.phaseA, numByte p.phaseB, optLineByte p.index, p.resolution.code, flagByte p.invert] ++
      beBytes 4 p.preset.toNat ++ [p.action.code, indexPhaseCode p.indexPhase] ++
      (match p.compare with
       | some c => 0x01 :: beBytes 4 c.toNat
       | none => 0x00 :: beBytes 4 0)
  | .deadline p =>
    numByte p.kick :: (beBytes 4 p.minimum ++ beBytes 4 p.maximum ++ [optLineByte p.alert])

/-- QUERY_TASK data (R27, R200). -/
def queryData (k : Slot) : Option Task → List Byte
  | none => [numByte k, freeCode]
  | some t =>
    [numByte k, t.state.code, flagByte t.held] ++ beBytes 2 t.runCount ++ beBytes 2 t.overrunCount ++
      [reasonCode t.faultReason] ++ beBytes 6 t.startTime.toNat ++ t.common.bytes t.engine.params ++
      t.engine.params.bytes

/-- The kind values READ_COUNT returns (R83, R92, R101, R108, R125, R136, R200). -/
def Engine.liveBytes : Engine → List Byte
  | .pulseTrain _ r =>
    BitVec.ofNat 8 r.index :: (beBytes 3 r.remaining ++ beBytes 2 r.loopsDone ++ [flagByte r.waiting])
  | .eventCount _ count => beBytes 4 count
  | .span _ r => r.phase.code :: beBytes 4 r.count
  | .windowCount _ r => r.phase.code :: beBytes 4 r.count
  | .position _ r => beBytes 4 r.position.toNat ++ beBytes 2 r.phaseErrors ++ [flagByte r.indexSeen]
  | .deadline _ r => beBytes 4 r.elapsed ++ [flagByte r.alert]

/-- READ_COUNT data at device time `now` (R28, R200). -/
def countData (k : Slot) (now : Time) : Option Task → List Byte
  | none => [numByte k, freeCode] ++ beBytes 6 now.toNat
  | some t =>
    [numByte k, t.state.code] ++ beBytes 6 now.toNat ++ [t.engine.params.code] ++ t.engine.liveBytes

/-! ### Line data (R199) -/

/-- Five bytes of an input. -/
def Input.bytes (i : Input) : List Byte :=
  [levelCode i.raw, i.cond.code, i.polarity.code, BitVec.ofNat 8 i.filter, BitVec.ofNat 8 i.claims.length]

/-- Four bytes of an output. -/
def Output.bytes (o : Output) : List Byte := [levelCode o.level, levelCode o.idle] ++ o.owner.codes

/-- The detail part: the line, and its claims in the order the claim set is kept in. -/
def detailBytes (u : LineUnit) : Option InLine → List Byte
  | none => [absentLine, 0x00]
  | some l =>
    let claims := (u.inputs.get l).claims
    numByte l :: BitVec.ofNat 8 claims.length :: claims.flatMap fun c => [numByte c.1, c.2.code]

/-- GET_LINES data (R46, R199). -/
def linesData (u : LineUnit) (detail : Option InLine) : List Byte :=
  u.inputs.cells.flatMap Input.bytes ++ u.outputs.cells.flatMap Output.bytes ++ detailBytes u detail

/-! ### Other data -/

/-- GET_PROGRAM data (R69, R198). -/
def programData (p : Program) (first : Nat) : List Byte :=
  let out := (p.segments.drop first).take Config.maxBatch
  [p.state.code, BitVec.ofNat 8 p.segments.length, BitVec.ofNat 8 p.refCount, BitVec.ofNat 8 out.length] ++
    out.flatMap Segment.bytes

/-- The oldest seq, next sequence and occupancy that session requests return (R160, R168). -/
def ReportQueue.oldestSeq (q : ReportQueue) : Seq :=
  match q.entries with
  | e :: _ => e.seq
  | [] => q.nextSeq

/-- The data of an OPEN_SESSION, ACK_REPORTS or RESEND_REPORTS response (R160, R168, R196). -/
def ReportQueue.data (q : ReportQueue) : List Byte :=
  beBytes 2 q.oldestSeq.toNat ++ beBytes 2 q.nextSeq.toNat ++ [BitVec.ofNat 8 q.entries.length]

/-- GET_IDENTITY data (R190, R196). -/
def identityData (l : Link) : List Byte :=
  beBytes 2 Config.vendorCode ++ beBytes 2 Config.partCode ++
    [BitVec.ofNat 8 Config.siliconRevision, 16, 12, 8, 8] ++ beBytes 2 Config.poolCells ++
    [BitVec.ofNat 8 Config.queueEntries, numByte l.rate, l.lastReset.code]

/-- GET_LINK_STATUS data (R189, R196). -/
def linkStatusData (l : Link) (session : Option Nat) : List Byte :=
  beBytes 2 l.crcErrors ++ beBytes 2 l.oversizeFrames ++ beBytes 2 l.abandonedFrames ++ beBytes 2 l.droppedFrames ++
    (match session with
     | none => [0x00, 0x00]
     | some w => [0x01, BitVec.ofNat 8 w]) ++
    [flagByte l.opened, numByte l.rate]

/-- GET_TIME data (R54, R196). -/
def timeData (t : Timebase) : List Byte := beBytes 6 t.time.toNat ++ [t.epoch, t.rate.code]

/-! ### Report records (R201) -/

/-- The kind code of a report (R140). -/
def Report.code : Report → Byte
  | .deviceReset _ => 0x01
  | .gap _ _ => 0x02
  | .taskStarted _ => 0x10
  | .taskDone _ _ _ _ => 0x11
  | .taskFault _ _ => 0x12
  | .taskRestarted _ _ => 0x13
  | .trainEnd _ => 0x20
  | .segmentEnd _ _ => 0x21
  | .countLimit _ _ => 0x28
  | .spanResult _ _ _ => 0x29
  | .windowResult _ _ => 0x2A
  | .positionIndex _ _ => 0x30
  | .positionCompare _ _ => 0x31
  | .phaseError _ _ => 0x32
  | .deadlineViolation _ _ => 0x38

/-- The values of a report (R140, R201). -/
def Report.bytes : Report → List Byte
  | .deviceReset cause => [cause.code]
  | .gap count _ => beBytes 2 count
  | .taskStarted cause => [cause.code]
  | .taskDone ending final runs overruns => ending.code :: (beBytes 4 final.toNat ++ beBytes 2 runs ++ beBytes 2 overruns)
  | .taskFault reason value => reasonCode (some reason) :: beBytes 4 value.toNat
  | .taskRestarted value overruns => beBytes 4 value.toNat ++ beBytes 2 overruns
  | .trainEnd loops => beBytes 2 loops
  | .segmentEnd index loops => BitVec.ofNat 8 index :: beBytes 2 loops
  | .countLimit limit crossings => beBytes 4 limit ++ beBytes 2 crossings
  | .spanResult count start overrange => beBytes 4 count ++ beBytes 6 start.toNat ++ [flagByte overrange]
  | .windowResult count length => beBytes 4 count ++ beBytes 4 length
  | .positionIndex before after => beBytes 4 before.toNat ++ beBytes 4 after.toNat
  | .positionCompare position direction => beBytes 4 position.toNat ++ [direction.code]
  | .phaseError position count => beBytes 4 position.toNat ++ beBytes 2 count
  | .deadlineViolation type elapsed => type.code :: beBytes 4 elapsed

/-- The task field of a report (R194). -/
def Source.code : Source → Byte
  | .device => 0xFF
  | .slot k => numByte k

/-- The record of a report-queue entry (R201). -/
def Entry.record (e : Entry) : List Byte :=
  beBytes 2 e.seq.toNat ++ [e.report.code, e.source.code, e.epoch] ++ beBytes 6 e.time.toNat ++ e.report.bytes

end Sys2Proof.Machine
end

