-- ==== Sys2Proof/Machine/Ops.lean ====
section
/-! DEFINITION. The named operations the meanings share: the interpreter's taking of a request, the report queue, the
outputs and MARK pulses, and one event at the engines with the reports it offers and the faults that follow. -/

namespace Sys2Proof.Machine

/-! ### The interpreter and the two queues of the link -/

/-- The response queue or the request queue has a free place (R182). -/
def hasPlace {α : Type} (queue : List α) : Bool := decide (queue.length < Config.linkEntries)

/-- The interpreter offers its response: it is placed and the interpreter is free, or the interpreter waits (R183,
R185). -/
def Link.offerResponse (l : Link) (f : OutFrame) : Link :=
  if hasPlace l.responses then { l with responses := l.responses ++ [f], interpreter := .free }
  else { l with interpreter := .waiting f }

/-- The receiver offers a BUSY response or a link notice: it is placed, or dropped and counted (R180, R181, R185). -/
def Link.offerOrDrop (l : Link) (f : OutFrame) : Link :=
  if hasPlace l.responses then { l with responses := l.responses ++ [f] }
  else { l with droppedFrames := sat16 l.droppedFrames }

/-- The request the interpreter takes next: the oldest of the request queue while it is free and no hard reset is in
progress (R183, R191). -/
def State.nextRequest? (s : State) : Option Frame :=
  if s.inReset.isNone && s.link.interpreter == .free then s.link.requests.head? else none

/-- Taking a request removes it from the request queue (R183). -/
def State.popRequest (s : State) : State := { s with link := { s.link with requests := s.link.requests.tail } }

/-- The response to `f` is offered in the event that took `f` (R183, R184). -/
def State.respond (s : State) (f : Frame) (r : Reply) : State :=
  { s with link := s.link.offerResponse (f.answer r false) }

/-- One event of the interpreter: where the next request is of the row `q`, it is taken, served and answered; where it is
not, nothing is taken (R183; log 2). -/
def takeRequest (q : Request) (serve : Frame → State → State × Reply) (s : State) : State :=
  match s.nextRequest? with
  | none => s
  | some f =>
    if f.request = q then
      let served := serve f s.popRequest
      served.1.respond f served.2
    else s

/-- A refused request changes nothing (R183). -/
def refuse (s : State) (st : Status) : State × Reply := (s, Reply.refuse st)

/-- The length check of a request whose LEN is fixed (R183 check 2). -/
def withLen (n : Nat) (f : Frame) (s : State) (serve : State × Reply) : State × Reply :=
  if f.payload.length = n then serve else refuse s .badLength

/-! ### The report queue -/

/-- Occupancy (R145). -/
def ReportQueue.occupancy (q : ReportQueue) : Nat := q.entries.length

/-- The SENT count (R157). -/
def ReportQueue.sentCount (q : ReportQueue) : Nat := (q.entries.filter Entry.isSent).length

/-- A new PENDING entry at the tail with the next sequence, which then rises by one (R143, R145, R150). -/
def ReportQueue.append (q : ReportQueue) (source : Source) (epoch : Epoch) (time : Time) (r : Report) : ReportQueue :=
  { q with
    entries := q.entries ++
      [{ seq := q.nextSeq, delivery := .pending, report := r, source := source, epoch := epoch, time := time }]
    nextSeq := q.nextSeq + 1 }

/-- A GAP carrying lost_count is inserted at the tail, and lost_count returns to 0 (R150). -/
def ReportQueue.insertGap (q : ReportQueue) (epoch : Epoch) (time : Time) : ReportQueue :=
  { q.append .device epoch time (.gap q.lostCount true) with lostCount := 0 }

/-- The entry with its GAP count one higher (R151). -/
def Entry.raised (e : Entry) : Entry :=
  match e.report with
  | .gap count isOpen => { e with report := .gap (sat16 count) isOpen }
  | _ => e

/-- The tail entry is an open GAP (R148). -/
def ReportQueue.tailOpenGap (q : ReportQueue) : Bool :=
  match q.entries.getLast? with
  | some e => e.isOpenGap
  | none => false

/-- A loss raises lost_count (R149 step 2). -/
def ReportQueue.countLoss (q : ReportQueue) : ReportQueue := { q with lostCount := sat16 q.lostCount }

/-- A GAP is inserted where lost_count is above 0 and the queue has room (R149 step 3, R152). -/
def ReportQueue.flushLost (q : ReportQueue) (epoch : Epoch) (time : Time) : ReportQueue :=
  if 0 < q.lostCount ∧ q.occupancy < Config.queueEntries then q.insertGap epoch time else q

/-- The loss of a refused report is recorded (R149). -/
def ReportQueue.lose (q : ReportQueue) (epoch : Epoch) (time : Time) : ReportQueue :=
  if q.tailOpenGap then
    match q.entries.getLast? with
    | some e => { q with entries := q.entries.dropLast ++ [e.raised] }
    | none => q
  else q.countLoss.flushLost epoch time

/-- An ordinary report is admitted at an occupancy of 62 or less (R145). -/
def ReportQueue.admits (q : ReportQueue) : Bool := decide (q.occupancy ≤ Config.admitLimit)

/-- The queue takes an offered report: it is admitted, or lost (R138, R145). -/
def ReportQueue.offer (q : ReportQueue) (source : Source) (epoch : Epoch) (time : Time) (r : Report) : ReportQueue :=
  if q.admits then q.append source epoch time r else q.lose epoch time

/-- `s` names a SENT entry: its distance from the oldest seq is below the SENT count (R168). -/
def ReportQueue.names (q : ReportQueue) (s : Seq) : Bool := decide ((s - q.oldestSeq).toNat < q.sentCount)

/-- The entry made PENDING again (R157). -/
def Entry.unsent (e : Entry) : Entry := { e with delivery := .pending }

/-- The entry as its transmission begins: SENT, and a GAP no longer open (R166). -/
def Entry.begun (e : Entry) : Entry :=
  { e with
    delivery := .sent
    report :=
      (match e.report with
       | .gap count _ => .gap count false
       | r => r) }

/-- Every SENT entry is made PENDING again (R162, R163). -/
def ReportQueue.unsendAll (q : ReportQueue) : ReportQueue := { q with entries := q.entries.map Entry.unsent }

/-- The entries from the oldest through `s` leave the queue; a GAP is inserted where lost_count is above 0 (R152,
R169). -/
def ReportQueue.acknowledge (q : ReportQueue) (s : Seq) (epoch : Epoch) (time : Time) : ReportQueue :=
  { q with entries := q.entries.drop ((s - q.oldestSeq).toNat + 1) }.flushLost epoch time

/-- Every entry from `s` on is made PENDING again (R170). -/
def ReportQueue.resend (q : ReportQueue) (s : Seq) : ReportQueue :=
  let n := (s - q.oldestSeq).toNat
  { q with entries := q.entries.take n ++ (q.entries.drop n).map Entry.unsent }

/-- The oldest PENDING entry begun, with the entry as the transmitter copies it (R165, R166). -/
def beginOldest : List Entry → Option (Entry × List Entry)
  | [] => none
  | e :: rest =>
    if e.isSent then (beginOldest rest).map fun r => (r.1, e :: r.2)
    else some (e.begun, e.begun :: rest)

/-- The session is OPEN with credit left (R165). -/
def ReportQueue.hasCredit (q : ReportQueue) : Bool :=
  match q.session with
  | some w => decide (q.sentCount < w)
  | none => false

/-- A report offered by the device (R138). -/
def State.offerDevice (s : State) (r : Report) : State :=
  { s with reports := s.reports.offer .device s.timebase.epoch s.timebase.time r }

/-! ### Outputs and MARK pulses -/

/-- The output driven to its active level, or to its idle level (R39). -/
def Output.drive (o : Output) (active : Bool) : Output :=
  { o with level := if active then otherLevel o.idle else o.idle }

/-- The output at its idle level with no MARK pulse (R44). -/
def Output.rest (o : Output) : Output := { o with level := o.idle, markEnd := none }

/-- The output given up: owner NONE, at its idle level, no pulse (R40). -/
def Output.release (o : Output) : Output := { o.rest with owner := .none }

/-- A MARK pulse running to `markEnd` (R43). -/
def Output.pulse (o : Output) (markEnd : Time) : Output := { o.drive true with markEnd := some markEnd }

/-- One output changed. -/
def State.onOutput (s : State) (l : OutLine) (f : Output → Output) : State :=
  { s with lines := { s.lines with outputs := s.lines.outputs.modify l f } }

/-- Every output changed. -/
def State.onOutputs (s : State) (f : Output → Output) : State :=
  { s with lines := { s.lines with outputs := s.lines.outputs.map f } }

/-- Each output slot `k` owns at its idle level, its MARK pulse cut (R24, R44). -/
def State.restOutputs (s : State) (k : Slot) : State :=
  s.onOutputs fun o => if o.ownedBy k then o.rest else o

/-- An optional output driven. -/
def State.driveOpt (s : State) (l : Option OutLine) (active : Bool) : State :=
  match l with
  | some line => s.onOutput line fun o => o.drive active
  | none => s

/-- The conditioned level of an input as it stands (R34). -/
def State.levelNow (s : State) (l : InLine) : Cond := (s.lines.inputs.get l).cond

/-! ### Slots -/

/-- The record of a slot; none for FREE. -/
def State.task? (s : State) (k : Slot) : Option Task := s.tasks.slots.get k

/-- A slot given a record. -/
def State.setTask (s : State) (k : Slot) (t : Task) : State :=
  { s with tasks := { s.tasks with slots := s.tasks.slots.set k (some t) } }

/-- A slot's record changed, where it has one. -/
def State.mapTask (s : State) (k : Slot) (f : Task → Task) : State :=
  match s.task? k with
  | some t => s.setTask k (f t)
  | none => s

/-- A slot's untaken update let go (R36; log 13). -/
def State.dropUpdate (s : State) (k : Slot) : State :=
  { s with tasks := { s.tasks with updates := s.tasks.updates.set k none } }

/-! ### Segments of a program (R72) -/

/-- The segments of a program. -/
def State.segments (s : State) (p : Prog) : List Segment := (s.programs.get p).segments

/-- The run state at the beginning of a segment: its duration remaining, waiting where it is a WAIT segment. -/
def TrainRun.atSegment (segments : List Segment) (index loopsDone : Nat) : TrainRun :=
  match segments[index]? with
  | some g => { index := index, remaining := g.duration, loopsDone := loopsDone, waiting := g.wait }
  | none => { index := index, remaining := 0, loopsDone := loopsDone, waiting := false }

/-- A PULSE_TRAIN's WAVE line goes to the level of its current segment (R71). -/
def State.driveWave (s : State) (e : Engine) : State :=
  match e with
  | .pulseTrain p r =>
    (match (s.segments p.program)[r.index]? with
     | some g => s.onOutput p.wave fun o => o.drive (g.level == .active)
     | none => s)
  | .eventCount _ _ => s
  | .span _ _ => s
  | .windowCount _ _ => s
  | .position _ _ => s
  | .deadline _ _ => s

/-- A PULSE_TRAIN's WAVE line goes to its idle level (R71). -/
def State.idleWave (s : State) (e : Engine) : State :=
  match e with
  | .pulseTrain p _ => s.onOutput p.wave fun o => o.drive false
  | .eventCount _ _ => s
  | .span _ _ => s
  | .windowCount _ _ => s
  | .position _ _ => s
  | .deadline _ _ => s

/-! ### The forms of the run state -/

/-- The initial form at DEFINE_TASK (R72, R88, R94, R103, R112, R127). -/
def KindParams.defined (segments : Prog → List Segment) : KindParams → Engine
  | .pulseTrain p => .pulseTrain p (TrainRun.atSegment (segments p.program) 0 0)
  | .eventCount p => .eventCount p 0
  | .span p => .span p { phase := .awaiting, count := 0, spanStart := 0 }
  | .windowCount p => .windowCount p { phase := .awaiting, count := 0, length := 0 }
  | .position p => .position p { position := p.preset, phaseErrors := 0, indexSeen := false, indexLevel := false }
  | .deadline p => .deadline p { elapsed := 0, expiryDue := false, alert := false }

/-- A WINDOW_COUNT at the beginning of a run: open at once with source DURATION (R103). -/
def WindowParams.fresh (p : WindowParams) : WindowRun :=
  match p.source with
  | .duration _ => { phase := .counting, count := 0, length := 0 }
  | .line _ => { phase := .awaiting, count := 0, length := 0 }

/-- The initial form at a start or a restart, with the levels of that instant (R72, R88, R94, R103, R112, R127). -/
def Engine.fresh (segments : Prog → List Segment) (level : InLine → Cond) : Engine → Engine
  | .pulseTrain p _ => .pulseTrain p (TrainRun.atSegment (segments p.program) 0 0)
  | .eventCount p _ => .eventCount p 0
  | .span p _ => .span p { phase := .awaiting, count := 0, spanStart := 0 }
  | .windowCount p _ => .windowCount p p.fresh
  | .position p r => .position p { r with indexSeen := false, indexLevel := p.indexCondition level }
  | .deadline p r => .deadline p { r with elapsed := 0, expiryDue := false }

/-- The form at a CONTINUOUS run boundary at `now`.  `carry` says that an edge closed a PERIOD span and opens the next
(R97); every other boundary takes the form of a start (R76, R89, R97, R98, R105, R131). -/
def Engine.nextRun (segments : Prog → List Segment) (level : InLine → Cond) (now : Time) (carry : Bool) :
    Engine → Engine
  | .pulseTrain p r => (Engine.pulseTrain p r).fresh segments level
  | .eventCount p c => (Engine.eventCount p c).fresh segments level
  | .span p r =>
    if carry && p.mode == .period then .span p { phase := .counting, count := 0, spanStart := now }
    else (Engine.span p r).fresh segments level
  | .windowCount p r => (Engine.windowCount p r).fresh segments level
  | .position p r => (Engine.position p r).fresh segments level
  | .deadline p r => (Engine.deadline p r).fresh segments level

/-- The run state as a run ends: an expiry is no longer due (R127). -/
def Engine.ended : Engine → Engine
  | .pulseTrain p r => .pulseTrain p r
  | .eventCount p c => .eventCount p c
  | .span p r => .span p r
  | .windowCount p r => .windowCount p r
  | .position p r => .position p r
  | .deadline p r => .deadline p { r with expiryDue := false }

/-- The run state with the alert released (R133). -/
def Engine.released : Engine → Engine
  | .pulseTrain p r => .pulseTrain p r
  | .eventCount p c => .eventCount p c
  | .span p r => .span p r
  | .windowCount p r => .windowCount p r
  | .position p r => .position p r
  | .deadline p r => .deadline p { r with expiryDue := false, alert := false }

/-- The ALERT output of a task, where it has one. -/
def Engine.alertLine? : Engine → Option OutLine
  | .pulseTrain _ _ => none
  | .eventCount _ _ => none
  | .span _ _ => none
  | .windowCount _ _ => none
  | .position _ _ => none
  | .deadline p _ => p.alert

/-- The record as a run begins at `now` (R12 steps 1 to 4, R16 step 4). -/
def Task.begun (t : Task) (segments : Prog → List Segment) (level : InLine → Cond) (now : Time) : Task :=
  { t with
    state := .running
    held := t.gateClosed level
    engine := t.engine.fresh segments level
    startTime := now
    tickPhase := 0
    clockDue := false }

/-- The record as it leaves RUNNING and STOPPING for `st`: held no, no task clock due (R2, R56). -/
def Task.left (t : Task) (st : TaskState) : Task :=
  { t with state := st, held := false, engine := t.engine.ended, clockDue := false }

/-! ### Offers and the queue's turns -/

/-- The report class of a slot's task (R138); a FREE slot offers nothing. -/
def State.classOf (s : State) (k : Slot) : ReportClass :=
  match s.task? k with
  | some t => t.common.reportClass
  | none => .normal

/-- The report is a TASK_FAULT. -/
def Report.isTaskFault : Report → Bool
  | .taskFault _ _ => true
  | _ => false

/-- The refusal of this offer faults its task: the class is CRITICAL and the report no TASK_FAULT (R25, R154). -/
def Offer.faultsIfLost (o : Offer) : Bool := o.reportClass == .critical && !o.report.isTaskFault

/-- The offers of an event that the queue has not taken, in the order they were made. -/
def OpenEvent.offers (e : OpenEvent) : List Offer := e.own ++ e.free

/-- An offer of slot `j` waits in this event. -/
def OpenEvent.holds (e : OpenEvent) (j : Slot) : Bool := e.offers.any fun o => o.slot == j

/-- The queue takes an offer of the event `e`; where it refuses it and the loss faults the task, the slot is noted (R25,
R138, R145, R154). -/
def takeOffer (x : State × OpenEvent) (o : Offer) : State × OpenEvent :=
  let q := x.1.reports
  ({ x.1 with reports := q.offer (.slot o.slot) x.2.epoch x.2.time o.report },
    if !q.admits && o.faultsIfLost then { x.2 with lost := x.2.lost ++ [o.slot] } else x.2)

/-- Slot `k` enters FAULTED, its task's record so far `t`: outputs idle, held no, the alert released (R24). -/
def State.fault (s : State) (k : Slot) (t : Task) (reason : FaultReason) : State :=
  (s.setTask k { t.left .faulted with faultReason := some reason, engine := t.engine.released }).restOutputs k

/-- The TASK_FAULT of slot `k` (R24, R26). -/
def faultOffer (k : Slot) (t : Task) (reason : FaultReason) : Offer :=
  { slot := k, reportClass := t.common.reportClass, report := .taskFault reason t.engine.principal }

/-- The fault of one noted slot at the end of an event, with its TASK_FAULT added to the offers; a task already FAULTED
keeps its first reason, and several losses give one fault (R25). -/
def faultLost (x : State × List Offer) (k : Slot) : State × List Offer :=
  match x.1.task? k with
  | some t =>
    if t.state = .faulted then x else (x.1.fault k t .reportLost, x.2 ++ [faultOffer k t .reportLost])
  | none => x

/-- The end of an event all of whose offers are taken: its noted slots fault, and their TASK_FAULTs are offered (R25,
R154). -/
def State.faultAll (s : State) (lost : List Slot) : State × List Offer := lost.foldl faultLost (s, [])

/-- What is left of an event after its end: the TASK_FAULTs, to be taken in any order. -/
def OpenEvent.ended (e : OpenEvent) (faults : List Offer) : List OpenEvent :=
  if faults.isEmpty then [] else [{ e with own := [], free := faults, lost := [] }]

/-- Slot `j` is not done with this event: an offer of it waits, or it is noted. -/
def OpenEvent.concerns (e : OpenEvent) (j : Slot) : Bool := e.holds j || e.lost.contains j

/-- The offer of slot `j` that the queue may take next in the event `e`, and the event without it: the first of `own`, or,
where that is empty, the slot's first of `free` (R147). -/
def OpenEvent.next? (e : OpenEvent) (j : Slot) : Option (Offer × OpenEvent) :=
  match e.own with
  | o :: rest => if o.slot = j then some (o, { e with own := rest }) else none
  | [] => (e.free.find? fun o => o.slot == j).map fun o => (o, { e with free := e.free.erase o })

/-- One turn of slot `j`: the queue takes its oldest waiting offer, if that is next in its event; where it was the event's
last, the event ends (R138, R147, R154). -/
def State.takeTurn (s : State) (j : Slot) : State :=
  match s.events.span fun e => !e.holds j with
  | (_, []) => s
  | (before, e :: after) =>
    match e.next? j with
    | none => s
    | some (o, e') =>
      let taken := takeOffer (s, e') o
      if taken.2.offers.isEmpty then
        let ended := taken.1.faultAll taken.2.lost
        { ended.1 with events := before ++ taken.2.ended ended.2 ++ after }
      else { taken.1 with events := before ++ taken.2 :: after }

/-- An event brought to its end: its offers are taken in the order they were made, its noted slots fault, and their
TASK_FAULTs are taken (R25, R138, R154). -/
def State.settleEvent (s : State) (e : OpenEvent) : State :=
  let taken := e.offers.foldl takeOffer (s, e)
  let ended := taken.1.faultAll taken.2.lost
  (ended.2.foldl takeOffer (ended.1, taken.2)).1

/-- Every open event brought to its end, the oldest first. -/
def State.settle (s : State) : State := s.events.foldl State.settleEvent { s with events := [] }

/-- An event of slot `j` is not over and may still fault its task (R25). -/
def State.undecided (s : State) (j : Slot) : Bool :=
  s.events.any fun e => e.lost.contains j || e.offers.any fun o => o.slot == j && o.faultsIfLost

/-- The state in which an event that concerns `slots` is taken: an earlier event that may still fault one of them is over
first (R23, R25; log 8). -/
def State.readyFor (s : State) (slots : List Slot) : State := if slots.any s.undecided then s.settle else s

/-- An event of slot `j` is not over. -/
def State.unfinished (s : State) (j : Slot) : Bool := s.events.any fun e => e.concerns j

/-- The state in which slots of `slots` may offer reports past which no earlier report of theirs waits (R26, R147). -/
def State.clearFor (s : State) (slots : List Slot) : State := if slots.any s.unfinished then s.settle else s

/-- The open events of `slots` brought to their end, the oldest first; the others stay open. -/
def State.endEventsOf (s : State) (slots : List Slot) : State :=
  (s.events.filter fun e => slots.any e.concerns).foldl State.settleEvent
    { s with events := s.events.filter fun e => !slots.any e.concerns }

/-- An event of a request at `slots`: the queue takes the reports it makes within it, so that they stand before those of the
request after it (R144, R183; log 8). -/
def State.requestEvent (s : State) (slots : List Slot) (event : State → State) : State :=
  (event (s.clearFor slots)).endEventsOf slots

/-- The queue's turns at the end of an event, and what becomes of the offers left (R147; logs 7 and 8). -/
def State.takeTurns (s : State) (turns : Turns) : State :=
  let s' := turns.order.foldl State.takeTurn s
  if turns.leave then s' else s'.settle

/-! ### One event at the engines -/

/-- A state in the middle of one event, with the reports offered in it so far: those that keep their order, and those that
may enter the queue in any order after them (R147). -/
structure Work where
  st : State
  own : List Offer
  free : List Offer
deriving DecidableEq, Repr

/-- An event begins. -/
def Work.of (s : State) : Work := { st := s, own := [], free := [] }

/-- The state changed. -/
def Work.on (w : Work) (f : State → State) : Work := { w with st := f w.st }

/-- Slot `k` offers a report in the order of the event (R138, R147). -/
def Work.offer (w : Work) (k : Slot) (r : Report) : Work :=
  { w with own := w.own ++ [{ slot := k, reportClass := w.st.classOf k, report := r }] }

/-- Slot `k` offers a report that has no order among the engines of the event (R147). -/
def Work.offerFree (w : Work) (k : Slot) (r : Report) : Work :=
  { w with free := w.free ++ [{ slot := k, reportClass := w.st.classOf k, report := r }] }

/-- Slot `k` enters FAULTED for a trigger overrun, and offers its TASK_FAULT (R24). -/
def Work.fault (w : Work) (k : Slot) (reason : FaultReason) : Work :=
  match w.st.task? k with
  | none => w
  | some t => { w with st := w.st.fault k t reason, own := w.own ++ [faultOffer k t reason] }

/-- The steps of an event at `now` are done: what it offered waits for the queue's turns (R138). -/
def Work.finish (w : Work) (now : Time) : State :=
  if w.own.isEmpty && w.free.isEmpty then w.st
  else
    { w.st with
      events := w.st.events ++ [{ epoch := w.st.timebase.epoch, time := now, own := w.own, free := w.free, lost := [] }] }

/-- A mark event of slot `k` at `now`, where its task names a mark (R43). -/
def State.markEvent (s : State) (k : Slot) (now : Time) : State :=
  match s.task? k with
  | some t =>
    (match t.common.mark with
     | some m => s.onOutput m.line fun o => o.pulse (now + BitVec.ofNat 48 m.ticks)
     | none => s)
  | none => s

/-- A run of slot `k` begins: the record, and the WAVE line at segment 0's level (R12, R16, R73). -/
def State.beginRun (s : State) (k : Slot) (level : InLine → Cond) (now : Time) : State :=
  match s.task? k with
  | some t =>
    let t' := t.begun s.segments level now
    (s.setTask k t').driveWave t'.engine
  | none => s

/-- A start's TASK_STARTED, where report_start is set (R12 step 5). -/
def Work.offerStarted (w : Work) (k : Slot) (cause : StartCause) : Work :=
  match w.st.task? k with
  | some t => if t.common.reportStart then w.offerFree k (.taskStarted cause) else w
  | none => w

/-- The slots ARMED with AFTER on slot `k` (R13). -/
def State.dependents (s : State) (k : Slot) : List Slot :=
  (indices 16).filter fun j =>
    match s.task? j with
    | some t => t.awaitsCompletionOf k
    | none => false

/-- The record of a completing task after step 4 of a run completion (R20). -/
def Task.movedOn (t : Task) (segments : Prog → List Segment) (level : InLine → Cond) (now : Time) (carry : Bool) :
    Task :=
  match t.state, t.common.repeats with
  | .running, .rearm => t.left .armed
  | .running, .continuous =>
    { t with engine := t.engine.nextRun segments level now carry, startTime := now, tickPhase := 0, clockDue := false }
  | .running, .once => t.left .done
  | _, _ => t.left .done

/-- The ending of TASK_DONE for a task that completes in this state (R20). -/
def TaskState.endingAtCompletion : TaskState → Ending
  | .stopping => .stopped
  | .idle => .complete
  | .armed => .complete
  | .running => .complete
  | .done => .complete
  | .faulted => .complete

/-- The completing task's TASK_DONE, where it has come to DONE (R20, R26).  `before` is its record before step 4. -/
def Work.offerDone (w : Work) (k : Slot) (before : Task) : Work :=
  match w.st.task? k with
  | some t =>
    if t.state = .done then
      w.offerFree k (.taskDone before.state.endingAtCompletion before.engine.principal before.runCount
        before.overrunCount)
    else w
  | none => w

/-- Steps 2 to 4 of the completion of a run of slot `k` at `now` (R19, R20): the run count rises, the dependents start,
the task moves on; its TASK_DONE and the dependents' TASK_STARTEDs have no order among themselves (R147). -/
def Work.complete (w : Work) (k : Slot) (now : Time) (carry : Bool) : Work :=
  match w.st.task? k with
  | none => w
  | some t0 =>
    let t := { t0 with runCount := sat16 t0.runCount }
    let deps := w.st.dependents k
    let started := w.on fun s => deps.foldl (fun s j => s.beginRun j s.levelNow now) (s.setTask k t)
    let moved := started.on fun s =>
      let t' := t.movedOn s.segments s.levelNow now carry
      let s' := s.setTask k t'
      if t'.state == .running then s'.driveWave t'.engine else s'
    deps.foldl (fun w j => w.offerStarted j .after) (moved.offerDone k t)

/-- The run state of slot `k` changed. -/
def Work.setEngine (w : Work) (k : Slot) (e : Engine) : Work :=
  w.on fun s => s.mapTask k fun t => { t with engine := e }

end Sys2Proof.Machine
end

