-- ==== Sys2Proof/Machine/Engine.lean ====
section
/-! DEFINITION. What the engines of the six kinds do with a task clock, with the working edges of an update, and with an
expiry: pulse trains (R70 to R83), event counts, spans and windows (R85 to R108), positions (R110 to R125) and
deadlines (R126 to R136). -/

namespace Sys2Proof.Machine

/-! ### Reading a view (R34) -/

/-- The level a line changed to in this update, where it changed. -/
def View.changeOf (v : View) (l : InLine) : Option Cond :=
  (v.changes.find? fun c => c.1 == l).map Prod.snd

/-- The line changed to level `c` in this update. -/
def View.edge (v : View) (l : InLine) (c : Cond) : Bool := v.changeOf l == some c

/-- The level of a line after the update; the line unit's own for a line the task does not claim. -/
def View.level (v : View) (s : State) (l : InLine) : Cond :=
  match v.levels.find? fun c => c.1 == l with
  | some c => c.2
  | none => s.levelNow l

/-- The update carries an ACTIVE edge of the task's clock line (R59). -/
def View.clockEdge (v : View) (c : Common) : Bool :=
  match c.clock with
  | .line l => v.edge l .active
  | .timebase _ => false

/-- The update carries the task's trigger edge (R15). -/
def View.triggerEdge (v : View) (c : Common) : Bool :=
  match c.trigger with
  | some t => v.edge t.line t.edge
  | none => false

/-! ### PULSE_TRAIN -/

/-- Loops not yet completed, the one in progress included; 0 in a run without end (R82). -/
def loopsRemaining (loops loopsDone : Nat) : Nat := if loops = 0 then 0 else loops - loopsDone

/-- A segment begins: the run state and the WAVE line (R71, R74, R75). -/
def trainBegin (k : Slot) (p : TrainParams) (index loopsDone : Nat) (w : Work) : Work :=
  w.on fun s =>
    let e := Engine.pulseTrain p (TrainRun.atSegment (s.segments p.program) index loopsDone)
    (s.mapTask k fun t => { t with engine := e }).driveWave e

/-- The loop is done (R75): the run completes (R76) where the task is STOPPING or the loops are played, and otherwise
segment 0 begins again. -/
def trainLoopDone (k : Slot) (now : Time) (p : TrainParams) (r : TrainRun) (stopping : Bool)
    (w : Work) : Work :=
  let loops := sat16 r.loopsDone
  if stopping ∨ (p.loops ≠ 0 ∧ loops = p.loops) then
    let e := Engine.pulseTrain p { r with remaining := 0, loopsDone := loops, waiting := false }
    ((((w.setEngine k e).on fun s => s.idleWave e).offer k (.trainEnd loops)).complete k now false)
  else trainBegin k p 0 loops w

/-- The current segment ends at this task clock (R74). -/
def trainSegmentEnd (k : Slot) (now : Time) (p : TrainParams) (r : TrainRun) (stopping : Bool)
    (w : Work) : Work :=
  let segments := w.st.segments p.program
  let flagged := match segments[r.index]? with
    | some g => g.reportEnd
    | none => false
  let w := if flagged then w.offer k (.segmentEnd r.index (loopsRemaining p.loops r.loopsDone)) else w
  if r.index + 1 < segments.length then trainBegin k p (r.index + 1) r.loopsDone w
  else trainLoopDone k now p r stopping w

/-- A task clock at a PULSE_TRAIN engine (R74). -/
def trainClock (k : Slot) (now : Time) (p : TrainParams) (r : TrainRun) (stopping : Bool)
    (w : Work) : Work :=
  if r.waiting then w
  else if r.remaining - 1 = 0 then trainSegmentEnd k now p r stopping w
  else w.setEngine k (.pulseTrain p { r with remaining := r.remaining - 1 })

/-- The release of a WAIT segment (R77). -/
def Engine.releaseWait : Engine → Engine
  | .pulseTrain p r => .pulseTrain p { r with waiting := false }
  | .eventCount p c => .eventCount p c
  | .span p r => .span p r
  | .windowCount p r => .windowCount p r
  | .position p r => .position p r
  | .deadline p r => .deadline p r

/-! ### EVENT_COUNT -/

/-- The run count that step 2 of a completion of slot `k` produces (R90). -/
def State.nextRunCount (s : State) (k : Slot) : Nat :=
  match s.task? k with
  | some t => sat16 t.runCount
  | none => 0

/-- An ACTIVE SIGNAL edge at an EVENT_COUNT engine (R89, R90). -/
def countEdge (k : Slot) (now : Time) (p : CountParams) (count : Nat) (w : Work) : Work :=
  let w' := w.setEngine k (.eventCount p (count + 1))
  if p.limit ≤ count + 1 then
    ((w'.offer k (.countLimit p.limit (w.st.nextRunCount k))).on fun s => s.markEvent k now).complete k now
      false
  else w'

/-! ### SPAN -/

/-- A SPAN run completes with the count of `r` (R97, R98). -/
def spanClose (k : Slot) (now : Time) (p : SpanParams) (r : SpanRun) (overrange : Bool)
    (w : Work) : Work :=
  (((w.setEngine k (.span p { r with phase := .awaiting })).offer k
      (.spanResult r.count r.spanStart overrange)).on fun s => s.markEvent k now).complete k now (!overrange)

/-- A task clock in an open span: the count rises, or overrange completes the run (R96, R98).  The flag says that the run
completed. -/
def spanTick (k : Slot) (now : Time) (p : SpanParams) (r : SpanRun) (w : Work) : Work × Bool :=
  if Config.maxCount ≤ r.count + 1 then (spanClose k now p { r with count := Config.maxCount } true w, true)
  else (w.setEngine k (.span p { r with count := r.count + 1 }), false)

/-- A task clock of a TIMEBASE clock at a SPAN engine: nothing in AWAITING (R95, R96). -/
def spanClock (k : Slot) (now : Time) (p : SpanParams) (r : SpanRun) (w : Work) : Work :=
  match r.phase with
  | .awaiting => w
  | .counting => (spanTick k now p r w).1

/-- The update carries the edge that closes a span of this mode (R96). -/
def SpanParams.closes (p : SpanParams) (v : View) : Bool :=
  match p.mode with
  | .pulse => v.edge p.signal .inactive
  | .period => v.edge p.signal .active

/-- The working edges of an update at a SPAN engine (R95 to R99): in an open span the clock edge before the SIGNAL edge,
at an opening the SIGNAL edge before the clock edge. -/
def spanEdges (k : Slot) (v : View) (p : SpanParams) (r : SpanRun) (clock running : Bool)
    (w : Work) : Work :=
  match r.phase with
  | .awaiting =>
    if running && v.edge p.signal .active then
      w.setEngine k (.span p { phase := .counting, count := if clock then 1 else 0, spanStart := v.time })
    else w
  | .counting =>
    let ticked := if clock then spanTick k v.time p r w else (w, false)
    if ticked.2 then ticked.1
    else if p.closes v then
      spanClose k v.time p { r with count := if clock then r.count + 1 else r.count } false ticked.1
    else ticked.1

/-! ### WINDOW_COUNT -/

/-- What an open window takes from one event: a SIGNAL edge, a task clock, a closing WINDOW edge.  The edge and the clock
are both counted, then the window closes where the event closes it (R104 to R106; log 14). -/
def windowTake (k : Slot) (now : Time) (p : WindowParams) (r : WindowRun)
    (signal clock closing : Bool) (w : Work) : Work :=
  let count := if signal then r.count + 1 else r.count
  let length := if clock then r.length + 1 else r.length
  let ended := match p.source with
    | .line _ => closing
    | .duration d => clock && decide (d ≤ length)
  let limit := (signal && decide (Config.maxCount ≤ count)) || (clock && decide (Config.maxCount ≤ length))
  if ended || limit then
    (((w.setEngine k (.windowCount p { phase := .awaiting, count := count, length := length })).offer k
        (.windowResult count length)).on fun s => s.markEvent k now).complete k now false
  else w.setEngine k (.windowCount p { phase := .counting, count := count, length := length })

/-- A task clock of a TIMEBASE clock at a WINDOW_COUNT engine: nothing in AWAITING (R103, R104). -/
def windowClock (k : Slot) (now : Time) (p : WindowParams) (r : WindowRun) (w : Work) : Work :=
  match r.phase with
  | .awaiting => w
  | .counting => windowTake k now p r false true false w

/-- The WINDOW edge of this direction, with source LINE (R103, R105). -/
def WindowParams.windowEdge (p : WindowParams) (v : View) (c : Cond) : Bool :=
  match p.source with
  | .line l => v.edge l c
  | .duration _ => false

/-- The working edges of an update at a WINDOW_COUNT engine (R103 to R106): an opening WINDOW edge before the SIGNAL and
clock edges, a closing one after them. -/
def windowEdges (k : Slot) (v : View) (p : WindowParams) (r : WindowRun) (clock : Bool)
    (w : Work) : Work :=
  let signal := v.edge p.signal .active
  match r.phase with
  | .awaiting =>
    if p.windowEdge v .active then
      w.setEngine k
        (.windowCount p { phase := .counting, count := if signal then 1 else 0, length := if clock then 1 else 0 })
    else w
  | .counting => windowTake k v.time p r signal clock (p.windowEdge v .inactive) w

/-! ### POSITION -/

/-- The direction of a change of PHASE_A to `a` with PHASE_B at `b`, or of PHASE_B with PHASE_A (R114). -/
def phaseDirection (aChanged : Bool) (a b : Cond) (invert : Bool) : Direction :=
  let up := if aChanged then a != b else a == b
  if up != invert then .up else .down

/-- The resolution counts this single phase change as a step (R115): a change of PHASE_A to level `a`, or of PHASE_B. -/
def Resolution.counts : Resolution → Bool → Cond → Bool
  | .x4, _, _ => true
  | .x2, aChanged, _ => aChanged
  | .x1, aChanged, a => aChanged && a == .active

/-- The position after a step (R114, R115). -/
def Direction.step : Direction → Position → Position
  | .up, p => p + 1
  | .down, p => p - 1

/-- A step of a POSITION task, and the compare match it may make (R115, R117). -/
def positionStep (k : Slot) (now : Time) (p : PositionParams) (r : PositionRun) (d : Direction) (w : Work) : Work :=
  let position := d.step r.position
  let w' := w.setEngine k (.position p { r with position := position })
  if p.compare = some position then
    (w'.offer k (.positionCompare position d)).on fun s => s.markEvent k now
  else w'

/-- A phase error (R116). -/
def positionError (k : Slot) (p : PositionParams) (r : PositionRun) (w : Work) : Work :=
  (w.setEngine k (.position p { r with phaseErrors := sat16 r.phaseErrors })).offer k
    (.phaseError r.position (sat16 r.phaseErrors))

/-- The phase changes of an update (R113): a step, a phase error, or nothing. -/
def positionPhases (k : Slot) (v : View) (p : PositionParams) (r : PositionRun) (w : Work) : Work :=
  let a := v.level w.st p.phaseA
  let b := v.level w.st p.phaseB
  match (v.changeOf p.phaseA).isSome, (v.changeOf p.phaseB).isSome with
  | true, true => positionError k p r w
  | true, false =>
    if p.resolution.counts true a then positionStep k v.time p r (phaseDirection true a b p.invert) w else w
  | false, true =>
    if p.resolution.counts false a then positionStep k v.time p r (phaseDirection false a b p.invert) w else w
  | false, false => w

/-- The position after an index event (R119). -/
def PositionParams.indexed (p : PositionParams) (r : PositionRun) : Position :=
  match p.action with
  | .none => r.position
  | .report => r.position
  | .load => p.preset
  | .loadFirst => if r.indexSeen then r.position else p.preset

/-- An index event (R119): index seen, the action, and its report and mark event unless the action is NONE. -/
def positionIndex (k : Slot) (now : Time) (p : PositionParams) (r : PositionRun) (w : Work) : Work :=
  let after := p.indexed r
  let w' := w.setEngine k (.position p { r with position := after, indexSeen := true, indexLevel := true })
  if p.action = .none then w'
  else (w'.offer k (.positionIndex r.position after)).on fun s => s.markEvent k now

/-- The index condition after an update (R118). -/
def positionIndexCheck (k : Slot) (v : View) (w : Work) : Work :=
  match w.st.task? k with
  | some t =>
    (match t.engine with
     | .position p r =>
       let condition := p.indexCondition (v.level w.st)
       if condition && !r.indexLevel then positionIndex k v.time p r w
       else w.setEngine k (.position p { r with indexLevel := condition })
     | _ => w)
  | none => w

/-- The working edges of an update at a POSITION engine (R120). -/
def positionEdges (k : Slot) (v : View) (p : PositionParams) (r : PositionRun) (w : Work) : Work :=
  positionIndexCheck k v (positionPhases k v p r w)

/-! ### DEADLINE -/

/-- A task clock at a DEADLINE engine: elapsed rises, and at the maximum an expiry becomes due (R128). -/
def DeadlineRun.tick (p : DeadlineParams) (r : DeadlineRun) : DeadlineRun :=
  if r.expiryDue then r
  else { r with elapsed := r.elapsed + 1, expiryDue := decide (p.maximum ≤ r.elapsed + 1) }

/-- A violation completes the run (R131). -/
def deadlineViolation (k : Slot) (now : Time) (p : DeadlineParams) (r : DeadlineRun)
    (type : Violation) (w : Work) : Work :=
  ((((w.offer k (.deadlineViolation type r.elapsed)).setEngine k
      (.deadline p { r with alert := true, expiryDue := false })).on fun s => s.driveOpt p.alert true).complete k now false)

/-- An accepted kick begins a new window and releases the alert (R128, R129). -/
def deadlineAccept (k : Slot) (p : DeadlineParams) (w : Work) : Work :=
  w.on fun s =>
    (s.mapTask k fun t =>
      { t with
        engine := .deadline p { elapsed := 0, expiryDue := false, alert := false }
        tickPhase := 0
        clockDue := false }).driveOpt p.alert false

/-- A kick (R129): EARLY below the minimum, accepted otherwise. -/
def deadlineKick (k : Slot) (now : Time) (p : DeadlineParams) (r : DeadlineRun) (w : Work) : Work :=
  if r.elapsed < p.minimum then deadlineViolation k now p r .early w else deadlineAccept k p w

/-- The working edges of an update at a DEADLINE engine: the clock edge, then the kick, and at the end of the event an
expiry the clock edge made due and no kick took (R130, R132). -/
def deadlineEdges (k : Slot) (v : View) (p : DeadlineParams) (r : DeadlineRun) (clock : Bool)
    (w : Work) : Work :=
  let r' := if clock then r.tick p else r
  let w' := w.setEngine k (.deadline p r')
  if v.edge p.kick .active then deadlineKick k v.time p r' w'
  else if clock && r'.expiryDue then deadlineViolation k v.time p r' .late w'
  else w'

/-! ### An engine's event -/

/-- The working edges of an update, taken by a run in progress that is not held (R14 step 3). -/
def workingEdges (k : Slot) (v : View) (w : Work) : Work :=
  match w.st.task? k with
  | none => w
  | some t =>
    if t.works then
      match t.engine with
      | .pulseTrain p r =>
        if v.clockEdge t.common then trainClock k v.time p r (t.state == .stopping) w else w
      | .eventCount p count => if v.edge p.signal .active then countEdge k v.time p count w else w
      | .span p r => spanEdges k v p r (v.clockEdge t.common) (t.state == .running) w
      | .windowCount p r => windowEdges k v p r (v.clockEdge t.common) w
      | .position p r => if t.state = .running then positionEdges k v p r w else w
      | .deadline p r => deadlineEdges k v p r (v.clockEdge t.common) w
    else w

/-- One task clock of a TIMEBASE clock at the engine of slot `k` (R56, R57). -/
def engineClock (k : Slot) (now : Time) (t : Task) (w : Work) : Work :=
  match t.engine with
  | .pulseTrain p r => trainClock k now p r (t.state == .stopping) w
  | .eventCount _ _ => w
  | .span p r => spanClock k now p r w
  | .windowCount p r => windowClock k now p r w
  | .position _ _ => w
  | .deadline p r => w.setEngine k (.deadline p (r.tick p))

/-- The record with the gate's new level (R17, R58): a closing gate discards the tick phase and a task clock not yet
taken. -/
def Task.gated (t : Task) (v : View) : Task :=
  match t.common.gate with
  | some g =>
    (match v.changeOf g.line with
     | some c =>
       if c = g.openWhen then { t with held := false } else { t with held := true, tickPhase := 0, clockDue := false }
     | none => t)
  | none => t

/-- Step 1 of an update: the gate (R14, R17). -/
def gateStep (k : Slot) (v : View) (w : Work) : Work :=
  w.on fun s => s.mapTask k fun t => if t.inRun then t.gated v else t

/-- A RESTART overrun replaces the run in progress (R16). -/
def restartRun (k : Slot) (v : View) (t : Task) (w : Work) : Work :=
  (w.offer k (.taskRestarted t.engine.principal t.overrunCount)).on fun s =>
    s.beginRun k (v.level s) v.time

/-- Step 2 of an update: the trigger edge (R15).  The flag says that the working edges are then taken (R14). -/
def triggerStep (k : Slot) (v : View) (w : Work) : Work × Bool :=
  match w.st.task? k with
  | none => (w, false)
  | some t =>
    if !v.triggerEdge t.common then (w, true)
    else
      let released := w.on fun s => s.setTask k { t with engine := t.engine.releaseWait }
      let counted := { t with overrunCount := sat16 t.overrunCount }
      let overrun := w.on fun s => s.setTask k counted
      match t.state with
      | .idle => (w, false)
      | .done => (w, false)
      | .faulted => (w, false)
      | .armed =>
        if t.common.start = .trigger then
          ((w.on fun s => s.beginRun k (v.level s) v.time).offerStarted k .trigger, false)
        else (w, false)
      | .stopping => if t.engine.waits then (released, true) else (overrun, true)
      | .running =>
        if t.engine.waits then (released, true)
        else
          match t.common.policy with
          | .ignore => (overrun, true)
          | .restart => (restartRun k v counted overrun, false)
          | .fault => (overrun.fault k .triggerOverrun, false)

/-- One update at the engine of slot `k`: the gate, the trigger edge, the working edges (R14); what it offers waits for the
queue. -/
def takeUpdate (k : Slot) (v : View) (s : State) : State :=
  let triggered := triggerStep k v (gateStep k v (Work.of s))
  (if triggered.2 then workingEdges k v triggered.1 else triggered.1).finish v.time

end Sys2Proof.Machine
end

