-- ==== Sys2Proof/Machine/EngineEvents.lean ====
section
/-! DEFINITION. The events at the task engines: an update, a task clock and an expiry taken (R14, R57, R131), each with the
turns of the report queue at its end (R147).  Each is taken where it is due; where it is not, the queue has its turns alone,
and during a hard reset nothing is taken (log 2). -/

namespace Sys2Proof.Machine

/-- The slots an event at the engine of slot `k` may act on: its own, and those ARMED with AFTER on it (R13). -/
def State.concerned (s : State) (k : Slot) : List Slot := k :: s.dependents k

/-- One event at the engine of slot `k`: taken once no earlier event may still fault a slot it concerns (R25; log 8), and
followed by the queue's turns. -/
def engineEvent (k : Slot) (turns : Turns) (event : State → State) (s : State) : State :=
  (event (s.readyFor (s.concerned k))).takeTurns turns

/-- The update waiting at slot `k` is taken, and waits no longer (R14, R37). -/
def updateEvent (k : Slot) (turns : Turns) (s : State) : State :=
  if s.inReset.isSome then s
  else
    match s.tasks.updates.get k with
    | none => s.takeTurns turns
    | some v => engineEvent k turns (fun s => takeUpdate k v (s.dropUpdate k)) s

/-- The task clock due at slot `k` is taken by its engine (R56, R57). -/
def takeClock (k : Slot) (s : State) : State :=
  match s.task? k with
  | none => s
  | some t =>
    (engineClock k s.timebase.time t (Work.of (s.setTask k { t with clockDue := false }))).finish s.timebase.time

/-- The expiry due at slot `k` is taken: a LATE violation (R131, R132). -/
def takeExpiry (k : Slot) (s : State) : State :=
  match s.task? k with
  | none => s
  | some t =>
    (match t.engine with
     | .deadline p r => (deadlineViolation k s.timebase.time p r .late (Work.of s)).finish s.timebase.time
     | _ => s)

/-- A task clock is due at slot `k`, whose engine works (R56, R57). -/
def State.clockFallen (s : State) (k : Slot) : Bool :=
  match s.task? k with
  | some t => t.works && t.clockDue
  | none => false

/-- An expiry is due at slot `k` in a run, held or not (R131, R132). -/
def State.expiryFallen (s : State) (k : Slot) : Bool :=
  match s.task? k with
  | some t => t.inRun && t.engine.expiryDue
  | none => false

/-- The task clock due at slot `k`. -/
def clockEvent (k : Slot) (turns : Turns) (s : State) : State :=
  if s.inReset.isSome then s
  else if s.clockFallen k then engineEvent k turns (fun s => if s.clockFallen k then takeClock k s else s) s
  else s.takeTurns turns

/-- The expiry due at slot `k`. -/
def expiryEvent (k : Slot) (turns : Turns) (s : State) : State :=
  if s.inReset.isSome then s
  else if s.expiryFallen k then engineEvent k turns (fun s => if s.expiryFallen k then takeExpiry k s else s) s
  else s.takeTurns turns

/-- TASK_UPDATE (R14). -/
def execTaskUpdate (slot : Slot) (turns : Turns) (s : State) : Host.Outcome State Fault Refusal :=
  .next (updateEvent slot turns s)

/-- TASK_CLOCK (R57). -/
def execTaskClock (slot : Slot) (turns : Turns) (s : State) : Host.Outcome State Fault Refusal :=
  .next (clockEvent slot turns s)

/-- DEADLINE_EXPIRY (R131). -/
def execDeadlineExpiry (slot : Slot) (turns : Turns) (s : State) : Host.Outcome State Fault Refusal :=
  .next (expiryEvent slot turns s)

end Sys2Proof.Machine
end

