-- ==== Sys2Proof/Machine/LineEvents.lean ====
section
/-! DEFINITION. The events of the line unit: a sample instant with the updates it forms (R33, R34, R37), and the end of a
MARK pulse (R44). -/

namespace Sys2Proof.Machine

/-- The first sample of an input after a hard or full reset: the levels are set, and no edge is formed (R47). -/
def Input.firstSample (i : Input) (raw : Level) : Input :=
  { i with raw := raw, cond := i.polarity.condOf raw, candidate := none }

/-- One sample of an input (R33). -/
def Input.sample (i : Input) (raw : Level) : Input :=
  if raw = i.polarity.levelOf i.cond then { i with raw := raw, candidate := none }
  else
    let count := i.candidate.getD 0 + 1
    if i.filter + 1 ≤ count then { i with raw := raw, cond := i.cond.other, candidate := none }
    else { i with raw := raw, candidate := some count }

/-- The inputs after a sample instant. -/
def LineUnit.sampleAll (u : LineUnit) (levels : Bank Level 12) : LineUnit :=
  { u with
    inputs := Bank.build 12 fun l =>
      if u.sampled then (u.inputs.get l).sample (levels.get l) else (u.inputs.get l).firstSample (levels.get l)
    sampled := true }

/-- Slot `k` holds a claim on an input (R35). -/
def Input.claimedBy (i : Input) (k : Slot) : Bool := i.claims.any fun c => c.1 == k

/-- The lines slot `k` claims (R34). -/
def LineUnit.claimedLines (u : LineUnit) (k : Slot) : List InLine :=
  (indices 12).filter fun l => (u.inputs.get l).claimedBy k

/-- The lines whose conditioned level changed from `u` to `v`: the update of the instant (R34). -/
def changedLines (u v : LineUnit) : List InLine :=
  if u.sampled then (indices 12).filter fun l => (u.inputs.get l).cond != (v.inputs.get l).cond else []

/-- Slot `k`'s view of the update, where a line it claims changed (R34). -/
def viewFor (u v : LineUnit) (now : Time) (k : Slot) : Option View :=
  let mine := v.claimedLines k
  let changed := mine.filter fun l => (changedLines u v).contains l
  if changed.isEmpty then none
  else
    some
      { changes := changed.map fun l => (l, (v.inputs.get l).cond)
        levels := mine.map fun l => (l, (v.inputs.get l).cond)
        time := now }

/-- A sample instant (R31, R33, R34).  The updates of an earlier instant are taken first (log 4), and its reports enter the
queue first (R144); none is taken during a hard reset (R49). -/
def sampleInputs (levels : Bank Level 12) (s : State) : State :=
  if s.inReset.isSome || s.tasks.updates.cells.any Option.isSome then s
  else
    let s := s.settle
    let v := s.lines.sampleAll levels
    { s with
      tasks := { s.tasks with updates := Bank.build 16 (viewFor s.lines v s.timebase.time) }
      lines := v }

/-- The end of the MARK pulse on a line, where device time has reached its end time (R44). -/
def endMark (l : OutLine) (s : State) : State :=
  if s.inReset.isNone && (s.lines.outputs.get l).markEnd == some s.timebase.time then s.onOutput l Output.rest else s

/-- SAMPLE_INSTANT (R33). -/
def execSampleInstant (levels : Bank Level 12) (s : State) : Host.Outcome State Fault Refusal :=
  .next (sampleInputs levels s)

/-- MARK_EXPIRY (R44). -/
def execMarkExpiry (line : OutLine) (s : State) : Host.Outcome State Fault Refusal := .next (endMark line s)

end Sys2Proof.Machine
end

