-- ==== Sys2Proof/Machine/LineRequests.lean ====
section
/-! DEFINITION. The requests of the line unit (R38, R41, R42, R46). -/

namespace Sys2Proof.Machine

/-- The input with a new polarity and filter: no candidate, and the conditioned level derived afresh from the raw level
(R38). -/
def Input.configure (i : Input) (p : Polarity) (filter : Nat) : Input :=
  { i with polarity := p, filter := filter, candidate := none, cond := p.condOf i.raw }

/-- One input changed. -/
def State.onInput (s : State) (l : InLine) (f : Input → Input) : State :=
  { s with lines := { s.lines with inputs := s.lines.inputs.modify l f } }

/-- The line, polarity and filter of a CONFIG_INPUT, where they are in range (R38 check 1). -/
def inputConfigOf? (p : List Byte) : Option (InLine × Polarity × Nat) := do
  let line ← inLineOf? (byteAt p 0)
  let polarity ← polarityOf? (byteAt p 1)
  require (decide ((byteAt p 2).toNat ≤ 63))
  return (line, polarity, (byteAt p 2).toNat)

/-- CONFIG_INPUT (R38). -/
def serveConfigInput (f : Frame) (s : State) : State × Reply :=
  withLen 3 f s
    (match inputConfigOf? f.payload with
     | none => refuse s .badParam
     | some (line, polarity, filter) =>
       if (s.lines.inputs.get line).claims.isEmpty then
         (s.onInput line fun i => i.configure polarity filter, Reply.ok)
       else refuse s .lineInUse)

/-- The output with a new idle level, driven to it (R41). -/
def Output.configure (o : Output) (idle : Level) : Output := { o with idle := idle, level := idle }

/-- CONFIG_OUTPUT (R41). -/
def serveConfigOutput (f : Frame) (s : State) : State × Reply :=
  withLen 2 f s
    (match outLineOf? (byteAt f.payload 0), levelOf? (byteAt f.payload 1) with
     | some line, some idle =>
       if (s.lines.outputs.get line).owner = .none then (s.onOutput line fun o => o.configure idle, Reply.ok)
       else refuse s .lineInUse
     | _, _ => refuse s .badParam)

/-- The checks of SET_OUTPUT, then an effect on the line (R42). -/
def setOutputWith (effect : Output → Output) (f : Frame) (s : State) : State × Reply :=
  match outLineOf? (byteAt f.payload 0) with
  | none => refuse s .badParam
  | some line =>
    if (s.lines.outputs.get line).taskOwned then refuse s .outputOwned else (s.onOutput line effect, Reply.ok)

/-- The output taken by the host and driven (R42). -/
def Output.host (active : Bool) (o : Output) : Output := { o.drive active with owner := .host }

/-- SET_OUTPUT with action ACTIVE (R42). -/
def serveSetOutputActive (f : Frame) (s : State) : State × Reply := setOutputWith (Output.host true) f s

/-- SET_OUTPUT with action IDLE (R42). -/
def serveSetOutputIdle (f : Frame) (s : State) : State × Reply := setOutputWith (Output.host false) f s

/-- SET_OUTPUT with action RELEASE (R42). -/
def serveSetOutputRelease (f : Frame) (s : State) : State × Reply := setOutputWith Output.release f s

/-- SET_OUTPUT with another action, or of a wrong length (R42). -/
def serveSetOutput (f : Frame) (s : State) : State × Reply := withLen 2 f s (refuse s .badParam)

/-- GET_LINES (R46).  No level within an event is seen at a pin (R71), so an event that may still fault its task, and so
idle its outputs, is over first (log 8). -/
def serveGetLines (f : Frame) (s : State) : State × Reply :=
  withLen 1 f s
    (match optField inLineOf? (byteAt f.payload 0) with
     | none => refuse s .badParam
     | some detail =>
       let s := s.readyFor (indices 16)
       (s, Reply.okWith (linesData s.lines detail)))

/-- CONFIG_INPUT (R38). -/
def execConfigInput (s : State) : Host.Outcome State Fault Refusal := .next (takeRequest .configInput serveConfigInput s)

/-- CONFIG_OUTPUT (R41). -/
def execConfigOutput (s : State) : Host.Outcome State Fault Refusal :=
  .next (takeRequest .configOutput serveConfigOutput s)

/-- SET_OUTPUT_ACTIVE (R42). -/
def execSetOutputActive (s : State) : Host.Outcome State Fault Refusal :=
  .next (takeRequest .setOutputActive serveSetOutputActive s)

/-- SET_OUTPUT_IDLE (R42). -/
def execSetOutputIdle (s : State) : Host.Outcome State Fault Refusal :=
  .next (takeRequest .setOutputIdle serveSetOutputIdle s)

/-- SET_OUTPUT_RELEASE (R42). -/
def execSetOutputRelease (s : State) : Host.Outcome State Fault Refusal :=
  .next (takeRequest .setOutputRelease serveSetOutputRelease s)

/-- SET_OUTPUT (R42). -/
def execSetOutput (s : State) : Host.Outcome State Fault Refusal := .next (takeRequest .setOutput serveSetOutput s)

/-- GET_LINES (R46). -/
def execGetLines (s : State) : Host.Outcome State Fault Refusal := .next (takeRequest .getLines serveGetLines s)

end Sys2Proof.Machine
end

