-- ==== Sys2Proof/Machine/LinkEvents.lean ====
section
/-! DEFINITION. The events of the host link controller: the receiver (R176 to R181), the placing of a held response (R185)
and the transmit arbiter (R186, R187).  During a hard reset RXD is ignored and nothing is sent (R191). -/

namespace Sys2Proof.Machine

/-! ### The receiver -/

/-- A good frame is admitted, answered BUSY, or dropped (R181). -/
def Link.admitFrame (l : Link) (f : Frame) : Link :=
  if hasPlace l.requests then { l with requests := l.requests ++ [f] }
  else l.offerOrDrop (f.answer (Reply.refuse .busy) false)

/-- The frame that the bytes after LEN make: TYPE, TAG and the payload (R195). -/
def frameOf (len : Nat) (bytes : List Byte) : Frame :=
  { type := byteAt bytes 0, tag := byteAt bytes 1, payload := (bytes.drop 2).take len }

/-- A complete frame is judged by its CRC (R178). -/
def Link.judge (l : Link) (len : Nat) (bytes : List Byte) (crc : BitVec 16) (low : Byte) : Link :=
  let l' := { l with receiver := .hunting }
  if crc = byteAt bytes (len + 2) ++ low then l'.admitFrame (frameOf len bytes)
  else { l' with crcErrors := sat16 l.crcErrors }.offerOrDrop (noticeFrame .crcError)

/-- A LEN byte (R176, R177). -/
def Link.takeLen (l : Link) (b : Byte) : Link :=
  if b.toNat ≤ Config.maxLen then { l with receiver := .body b.toNat [] (crcByte crcStart b) }
  else { l with receiver := .hunting, oversizeFrames := sat16 l.oversizeFrames }.offerOrDrop (noticeFrame .oversize)

/-- A byte of BODY: TYPE, TAG or payload, the first CRC byte, or the second (R176). -/
def Link.takeBody (l : Link) (len : Nat) (bytes : List Byte) (crc : BitVec 16) (b : Byte) : Link :=
  if bytes.length < len + 2 then { l with receiver := .body len (bytes ++ [b]) (crcByte crc b) }
  else if bytes.length = len + 2 then { l with receiver := .body len (bytes ++ [b]) crc }
  else l.judge len bytes crc b

/-- One received byte (R176). -/
def Link.take (l : Link) (b : Byte) : Link :=
  match l.receiver with
  | .hunting => if b = syncByte then { l with receiver := .length } else l
  | .length => l.takeLen b
  | .body len bytes crc => l.takeBody len bytes crc b

/-- The silence timer of an open frame expires (R179); outside a frame there is none. -/
def Link.abandon (l : Link) : Link :=
  match l.receiver with
  | .hunting => l
  | .length => { l with receiver := .hunting, abandonedFrames := sat16 l.abandonedFrames }
  | .body _ _ _ => { l with receiver := .hunting, abandonedFrames := sat16 l.abandonedFrames }

/-- The receiver's character in the state (R176); ignored during a hard reset (R191). -/
def receiveByte (b : Byte) (s : State) : State :=
  if s.inReset.isSome then s else { s with link := s.link.take b }

/-- The receiver's silence in the state (R179, R191). -/
def abandonFrame (s : State) : State := if s.inReset.isSome then s else { s with link := s.link.abandon }

/-! ### The held response -/

/-- A held response takes a free place: a waiting interpreter becomes free, a stopped one stays stopped (R183, R185). -/
def Link.placeHeld (l : Link) : Link :=
  if hasPlace l.responses then
    match l.interpreter with
    | .free => l
    | .waiting f => { l with responses := l.responses ++ [f], interpreter := .free }
    | .stopped (some f) => { l with responses := l.responses ++ [f], interpreter := .stopped none }
    | .stopped none => l
  else l

/-- The interpreter's placing of its held response in the state (R185). -/
def placeResponse (s : State) : State := if s.inReset.isSome then s else { s with link := s.link.placeHeld }

/-! ### The transmitter -/

/-- The transmitter's copy of a response, BUSY response or notice (R187). -/
def OutFrame.transmission (f : OutFrame) : Transmission :=
  { bytes := frameBytes f.type f.tag f.payload, endsInFullReset := f.endsInFullReset }

/-- The transmitter's copy of a report: TYPE 80h, TAG 00h, the entry's record (R166, R195, R201). -/
def Entry.transmission (e : Entry) : Transmission :=
  { bytes := frameBytes 0x80 0x00 e.record, endsInFullReset := false }

/-- A report is eligible (R165), and the interpreter holds no response: no report frame begins between the taking of a
request and its response (R164; log 11). -/
def State.reportEligible (s : State) : Bool := s.reports.hasCredit && s.link.interpreter.held.isNone

/-- The arbiter's choice with no frame in transmission: the head of the response queue, otherwise the oldest PENDING
entry if a report is eligible, otherwise idle (R186, R187). -/
def arbitrate (s : State) : State :=
  match s.link.responses with
  | f :: rest => { s with link := { s.link with responses := rest, transmission := some f.transmission } }
  | [] =>
    if s.reportEligible then
      match beginOldest s.reports.entries with
      | some (e, entries) =>
        { s with
          reports := { s.reports with entries := entries }
          link := { s.link with transmission := some e.transmission } }
      | none => s
    else s

/-- The frame in transmission is at its end (R186). -/
def State.endFrame (s : State) : State := { s with link := { s.link with transmission := none } }

/-- A frame boundary (R186).  The end of the OK response of RESET_DEVICE FULL is the full reset instead (R192). -/
def atFrameBoundary (s : State) : State :=
  match s.link.transmission with
  | none => s
  | some t => if t.endsInFullReset then s else arbitrate s.endFrame

/-- The choice of an idle arbiter (R186); none is made during a hard reset (R191). -/
def atIdle (s : State) : State :=
  if s.inReset.isSome || s.link.transmission.isSome then s else arbitrate s

/-! ### The meanings -/

/-- RX_BYTE (R176). -/
def execRxByte (byte : Byte) (s : State) : Host.Outcome State Fault Refusal := .next (receiveByte byte s)

/-- FRAME_ABANDONED (R179). -/
def execFrameAbandoned (s : State) : Host.Outcome State Fault Refusal := .next (abandonFrame s)

/-- RESPONSE_PLACED (R185). -/
def execResponsePlaced (s : State) : Host.Outcome State Fault Refusal := .next (placeResponse s)

/-- FRAME_BOUNDARY (R186). -/
def execFrameBoundary (s : State) : Host.Outcome State Fault Refusal := .next (atFrameBoundary s)

/-- IDLE_ARBITER_CHOICE (R186). -/
def execIdleArbiterChoice (s : State) : Host.Outcome State Fault Refusal := .next (atIdle s)

end Sys2Proof.Machine
end

