-- ==== Sys2Proof/Machine/LinkRequests.lean ====
section
/-! DEFINITION. The requests served by the host link controller and the interpreter itself: identity and link status
(R189, R190), RESET_DEVICE (R192, R193), and a frame of no assigned code (R183). -/

namespace Sys2Proof.Machine

/-- GET_IDENTITY (R190). -/
def serveGetIdentity (f : Frame) (s : State) : State × Reply :=
  withLen 0 f s (s, Reply.okWith (identityData s.link))

/-- The four link counters at 0 (R188). -/
def Link.clearCounters (l : Link) : Link :=
  { l with crcErrors := 0, oversizeFrames := 0, abandonedFrames := 0, droppedFrames := 0 }

/-- GET_LINK_STATUS (R189). -/
def serveGetLinkStatus (f : Frame) (s : State) : State × Reply :=
  withLen 1 f s
    (match strictFlag (byteAt f.payload 0) with
     | none => refuse s .badParam
     | some clear =>
       (if clear then { s with link := s.link.clearCounters } else s,
        Reply.okWith (linkStatusData s.link s.reports.session)))

/-- The stopped interpreter with the OK response of RESET_DEVICE FULL: placed, or held (R183, R192). -/
def Link.stop (l : Link) (f : OutFrame) : Link :=
  if hasPlace l.responses then { l with responses := l.responses ++ [f], interpreter := .stopped none }
  else { l with interpreter := .stopped (some f) }

/-- RESET_DEVICE with scope FULL (R192): its OK is the frame at whose end the full reset takes place. -/
def resetDeviceFull (s : State) : State :=
  match s.nextRequest? with
  | none => s
  | some f =>
    if f.request = .resetDeviceFull then
      { s with link := s.popRequest.link.stop (f.answer Reply.ok true) }
    else s

/-- A claim set without the claims of one slot (R7). -/
def Input.dropClaims (k : Slot) (i : Input) : Input := { i with claims := i.claims.filter fun c => c.1 != k }

/-- The task reset but for its report: every slot FREE with the effects on lines and store (R30, R48, R84). -/
def freeAllSlots (s : State) : State :=
  { s with
    tasks := { slots := Bank.fill 16 none, updates := Bank.fill 16 none }
    lines :=
      { s.lines with
        inputs := s.lines.inputs.map fun i => { i with claims := [] }
        outputs := s.lines.outputs.map fun o => if o.taskOwned then o.release else o }
    programs := s.programs.map fun p => { p with refCount := 0 } }

/-- RESET_DEVICE with scope TASKS (R30, R193): what was acted on before has its reports offered (R36), the slots are freed,
then DEVICE_RESET is offered, then the OK. -/
def serveResetDeviceTasks (_ : Frame) (s : State) : State × Reply :=
  ((freeAllSlots s.settle).offerDevice (.deviceReset .tasks), Reply.ok)

/-- RESET_DEVICE with another scope, or of a wrong length (R192). -/
def serveResetDevice (f : Frame) (s : State) : State × Reply := withLen 1 f s (refuse s .badParam)

/-- A frame whose TYPE is no assigned request code (R183 check 1). -/
def serveUnknownRequest (_ : Frame) (s : State) : State × Reply := refuse s .unknownRequest

/-- GET_IDENTITY (R190). -/
def execGetIdentity (s : State) : Host.Outcome State Fault Refusal := .next (takeRequest .getIdentity serveGetIdentity s)

/-- GET_LINK_STATUS (R189). -/
def execGetLinkStatus (s : State) : Host.Outcome State Fault Refusal :=
  .next (takeRequest .getLinkStatus serveGetLinkStatus s)

/-- RESET_DEVICE_FULL (R192). -/
def execResetDeviceFull (s : State) : Host.Outcome State Fault Refusal := .next (resetDeviceFull s)

/-- RESET_DEVICE_TASKS (R193). -/
def execResetDeviceTasks (s : State) : Host.Outcome State Fault Refusal :=
  .next (takeRequest .resetDeviceTasks serveResetDeviceTasks s)

/-- RESET_DEVICE (R192). -/
def execResetDevice (s : State) : Host.Outcome State Fault Refusal := .next (takeRequest .resetDevice serveResetDevice s)

/-- UNKNOWN_REQUEST (R183). -/
def execUnknownRequest (s : State) : Host.Outcome State Fault Refusal :=
  .next (takeRequest .unknown serveUnknownRequest s)

end Sys2Proof.Machine
end

