-- ==== Sys2Proof/Machine/ProgramRequests.lean ====
section
/-! DEFINITION. The requests of the segment store (R65 to R69). -/

namespace Sys2Proof.Machine

/-- Cells occupied by the eight programs (R62). -/
def usedCells (b : Bank Program 8) : Nat := (b.cells.map fun p => p.segments.length).sum

/-- Free cells of the pool (R62). -/
def State.freeCells (s : State) : Nat := Config.poolCells - usedCells s.programs

/-- One program changed. -/
def State.onProgram (s : State) (p : Prog) (f : Program → Program) : State :=
  { s with programs := s.programs.modify p f }

/-- The program, final flag and segments of a LOAD_PROGRAM or APPEND_PROGRAM, where they pass checks 2 to 4 of R65. -/
def loadOf? (p : List Byte) : Option (Prog × Bool × List Segment) := do
  let program ← progOf? (byteAt p 0)
  require (decide (1 ≤ (byteAt p 2).toNat ∧ (byteAt p 2).toNat ≤ Config.maxBatch))
  let segments ← segmentsOf? (byteAt p 2).toNat (p.drop 3)
  return (program, looseFlag (byteAt p 1), segments)

/-- SEALED with the final flag, OPEN without (R66, R67). -/
def progStateOf (final : Bool) : ProgState := if final then .sealed else .loading

/-- The program with its content replaced (R66). -/
def Program.load (final : Bool) (segments : List Segment) (p : Program) : Program :=
  { p with state := progStateOf final, segments := segments }

/-- The program with segments added at its end (R67). -/
def Program.extend (final : Bool) (segments : List Segment) (p : Program) : Program :=
  { p with state := progStateOf final, segments := p.segments ++ segments }

/-- The program emptied (R68). -/
def Program.erase (p : Program) : Program := { p with state := .empty, segments := [] }

/-- LOAD_PROGRAM (R65, R66). -/
def serveLoadProgram (f : Frame) (s : State) : State × Reply :=
  if segmentsLenOk f.payload then
    match loadOf? f.payload with
    | none => refuse s .badParam
    | some (k, final, segments) =>
      let p := s.programs.get k
      if 0 < p.refCount then refuse s .programInUse
      else if s.freeCells + p.segments.length < segments.length then refuse s .noSpace
      else (s.onProgram k (Program.load final segments), Reply.ok)
  else refuse s .badLength

/-- APPEND_PROGRAM (R65, R67). -/
def serveAppendProgram (f : Frame) (s : State) : State × Reply :=
  if segmentsLenOk f.payload then
    match loadOf? f.payload with
    | none => refuse s .badParam
    | some (k, final, segments) =>
      let p := s.programs.get k
      if p.state ≠ .loading then refuse s .badState
      else if Config.maxProgram < p.segments.length + segments.length then refuse s .badParam
      else if s.freeCells < segments.length then refuse s .noSpace
      else (s.onProgram k (Program.extend final segments), Reply.ok)
  else refuse s .badLength

/-- ERASE_PROGRAM (R68). -/
def serveEraseProgram (f : Frame) (s : State) : State × Reply :=
  withLen 1 f s
    (match progOf? (byteAt f.payload 0) with
     | none => refuse s .badParam
     | some k =>
       if 0 < (s.programs.get k).refCount then refuse s .programInUse
       else (s.onProgram k Program.erase, Reply.ok))

/-- GET_PROGRAM (R69). -/
def serveGetProgram (f : Frame) (s : State) : State × Reply :=
  withLen 2 f s
    (match progOf? (byteAt f.payload 0) with
     | none => refuse s .badParam
     | some k =>
       if 127 < (byteAt f.payload 1).toNat then refuse s .badParam
       else (s, Reply.okWith (programData (s.programs.get k) (byteAt f.payload 1).toNat)))

/-- LOAD_PROGRAM (R66). -/
def execLoadProgram (s : State) : Host.Outcome State Fault Refusal := .next (takeRequest .loadProgram serveLoadProgram s)

/-- APPEND_PROGRAM (R67). -/
def execAppendProgram (s : State) : Host.Outcome State Fault Refusal :=
  .next (takeRequest .appendProgram serveAppendProgram s)

/-- ERASE_PROGRAM (R68). -/
def execEraseProgram (s : State) : Host.Outcome State Fault Refusal :=
  .next (takeRequest .eraseProgram serveEraseProgram s)

/-- GET_PROGRAM (R69). -/
def execGetProgram (s : State) : Host.Outcome State Fault Refusal := .next (takeRequest .getProgram serveGetProgram s)

end Sys2Proof.Machine
end

