-- ==== Sys2Proof/Machine/Resets.lean ====
section
/-! DEFINITION. The hard reset and the full reset (R191, R192, and each chapter's values after resets). -/

namespace Sys2Proof.Machine

/-- The cause a hard reset leaves (R191). -/
def resetCauseOf : HardCause → ResetCause
  | .power => .power
  | .pin => .pin

/-- Every block at its hard-reset values, with this cause and the rate the straps give; the commands still waiting are
kept (R29, R47, R61, R84, R155, R158, R191). -/
def resetTo (pending : List Instr) (cause : ResetCause) (straps : Straps) : State where
  pending := pending
  inReset := none
  tasks := { slots := Bank.fill 16 none, updates := Bank.fill 16 none }
  lines := { inputs := Bank.fill 12 Input.reset, outputs := Bank.fill 8 Output.reset, sampled := false }
  timebase := { rate := .micro, time := 0, epoch := 0 }
  programs := Bank.fill 8 Program.reset
  reports :=
    ({ entries := [], nextSeq := 0, lostCount := 0, session := none } : ReportQueue).append .device 0 0
      (.deviceReset cause)
  events := []
  link :=
    { receiver := .hunting
      requests := []
      responses := []
      interpreter := .free
      transmission := none
      crcErrors := 0
      oversizeFrames := 0
      abandonedFrames := 0
      droppedFrames := 0
      opened := false
      lastReset := cause
      rate := rateCodeOf straps }

/-- The output during a hard reset: driven LOW, its MARK pulse cut (R44, R47). -/
def Output.lowInReset (o : Output) : Output := { o with level := .low, markEnd := none }

/-- The link as a hard reset begins: the frame in transmission is cut, the frame being received is discarded, and both
queues and a held response are lost (R191). -/
def Link.cut (l : Link) : Link :=
  { l with receiver := .hunting, requests := [], responses := [], interpreter := .free, transmission := none }

/-- A hard reset begins (R191); updates and offers not yet taken are let go (log 13).  RSTN during a hard reset begins none
anew; a loss of power does (log 17). -/
def beginHardReset (cause : HardCause) (s : State) : State :=
  if s.inReset.isSome && cause == .pin then s
  else
    { s.onOutputs Output.lowInReset with
      inReset := some cause
      tasks := { s.tasks with updates := Bank.fill 16 none }
      events := []
      link := s.link.cut }

/-- The end of a hard reset (R191). -/
def endHardReset (straps : Straps) (s : State) : State :=
  match s.inReset with
  | some cause => resetTo s.pending (resetCauseOf cause) straps
  | none => s

/-- The full reset at the end of the transmission of its OK response (R192). -/
def fullResetEvent (straps : Straps) (s : State) : State :=
  match s.link.transmission with
  | some t => if t.endsInFullReset then resetTo s.pending .full straps else s
  | none => s

/-- FULL_RESET (R192). -/
def execFullReset (straps : Straps) (s : State) : Host.Outcome State Fault Refusal := .next (fullResetEvent straps s)

/-- HARD_RESET (R191). -/
def execHardReset (cause : HardCause) (s : State) : Host.Outcome State Fault Refusal := .next (beginHardReset cause s)

/-- HARD_RESET_END (R191). -/
def execHardResetEnd (straps : Straps) (s : State) : Host.Outcome State Fault Refusal := .next (endHardReset straps s)

end Sys2Proof.Machine
end

