-- ==== Sys2Proof/Machine/SessionRequests.lean ====
section
/-! DEFINITION. The requests of sessions and report delivery (R157 to R170). -/

namespace Sys2Proof.Machine

/-- A session opened with window `w` on the queue the mode left: the opened flag becomes yes (R160, R189). -/
def State.openSession (s : State) (q : ReportQueue) (w : Nat) : State :=
  { s with reports := { q with session := some w }, link := { s.link with opened := true } }

/-- The queue emptied by a CLEAN opening (R161). -/
def ReportQueue.clean (q : ReportQueue) : ReportQueue := { q with entries := [], lostCount := 0, nextSeq := 0 }

/-- An opening with the window of the request, on the queue `mode` leaves (R160). -/
def openWith (mode : ReportQueue → ReportQueue) (f : Frame) (s : State) : State × Reply :=
  let w := (byteAt f.payload 0).toNat
  if 1 ≤ w ∧ w ≤ Config.maxWindow then
    let s' := s.openSession (mode s.reports) w
    (s', Reply.okWith s'.reports.data)
  else refuse s .badParam

/-- OPEN_SESSION in mode CLEAN (R160, R161). -/
def serveOpenSessionClean (f : Frame) (s : State) : State × Reply := openWith ReportQueue.clean f s

/-- OPEN_SESSION in mode RESUME (R160, R162). -/
def serveOpenSessionResume (f : Frame) (s : State) : State × Reply := openWith ReportQueue.unsendAll f s

/-- OPEN_SESSION in another mode, or of a wrong length (R160). -/
def serveOpenSession (f : Frame) (s : State) : State × Reply := withLen 2 f s (refuse s .badParam)

/-- CLOSE_SESSION (R163). -/
def serveCloseSession (f : Frame) (s : State) : State × Reply :=
  withLen 0 f s
    (match s.reports.session with
     | none => refuse s .badState
     | some _ => ({ s with reports := { s.reports.unsendAll with session := none } }, Reply.ok))

/-- The sequence number of an ACK_REPORTS or RESEND_REPORTS (R168). -/
def seqOf (f : Frame) : Seq := BitVec.ofNat 16 (natAt f.payload 0 2)

/-- The checks of R168, then an effect on the queue, answered with the queue as it then stands. -/
def onNamed (f : Frame) (s : State) (effect : Seq → ReportQueue → ReportQueue) : State × Reply :=
  withLen 2 f s
    (if s.reports.session = none then refuse s .noSession
     else if s.reports.names (seqOf f) then
       let q := effect (seqOf f) s.reports
       ({ s with reports := q }, Reply.okWith q.data)
     else refuse s .badAck)

/-- ACK_REPORTS (R168, R169). -/
def serveAckReports (f : Frame) (s : State) : State × Reply :=
  onNamed f s fun n q => q.acknowledge n s.timebase.epoch s.timebase.time

/-- RESEND_REPORTS (R168, R170). -/
def serveResendReports (f : Frame) (s : State) : State × Reply := onNamed f s fun n q => q.resend n

/-- OPEN_SESSION_CLEAN (R161). -/
def execOpenSessionClean (s : State) : Host.Outcome State Fault Refusal :=
  .next (takeRequest .openSessionClean serveOpenSessionClean s)

/-- OPEN_SESSION_RESUME (R162). -/
def execOpenSessionResume (s : State) : Host.Outcome State Fault Refusal :=
  .next (takeRequest .openSessionResume serveOpenSessionResume s)

/-- OPEN_SESSION (R160). -/
def execOpenSession (s : State) : Host.Outcome State Fault Refusal := .next (takeRequest .openSession serveOpenSession s)

/-- CLOSE_SESSION (R163). -/
def execCloseSession (s : State) : Host.Outcome State Fault Refusal :=
  .next (takeRequest .closeSession serveCloseSession s)

/-- ACK_REPORTS (R169). -/
def execAckReports (s : State) : Host.Outcome State Fault Refusal := .next (takeRequest .ackReports serveAckReports s)

/-- RESEND_REPORTS (R170). -/
def execResendReports (s : State) : Host.Outcome State Fault Refusal :=
  .next (takeRequest .resendReports serveResendReports s)

end Sys2Proof.Machine
end

