-- ==== Sys2Proof/Machine/TaskRequests.lean ====
section
/-! DEFINITION. The task requests (R3 to R11, R21, R22, R27, R28) and SET_POSITION (R122). -/

namespace Sys2Proof.Machine

/-! ### Defining and deleting -/

/-- The place of a claim in the order GET_LINES lists claims in: rising slots, and within one slot the role order of
R46. -/
def claimRank (c : Slot × InRole) : Nat := c.1.val * 16 + c.2.code.toNat

/-- A claim set with one more claim, kept in the order of R46 (log 16). -/
def insertClaim (c : Slot × InRole) : List (Slot × InRole) → List (Slot × InRole)
  | [] => [c]
  | d :: rest => if claimRank c < claimRank d then c :: d :: rest else d :: insertClaim c rest

/-- One claim added to the claim map (R6). -/
def LineUnit.claim (u : LineUnit) (k : Slot) (c : InLine × InRole) : LineUnit :=
  { u with inputs := u.inputs.modify c.1 fun i => { i with claims := insertClaim (k, c.2) i.claims } }

/-- One output passed to a slot in a role; its level is unchanged (R6, R40). -/
def LineUnit.own (u : LineUnit) (k : Slot) (o : OutLine × OutRole) : LineUnit :=
  { u with outputs := u.outputs.modify o.1 fun r => { r with owner := .task k o.2 } }

/-- The places a record needs on one line (R4 check 6). -/
def placesOn (claims : List (InLine × InRole)) (l : InLine) : Nat := (claims.filter fun c => c.1 == l).length

/-- On every input the claims held and the places needed fit (R4 check 6). -/
def State.claimsFit (s : State) (claims : List (InLine × InRole)) : Bool :=
  (indices 12).all fun l =>
    decide ((s.lines.inputs.get l).claims.length + placesOn claims l ≤ Config.claimPlaces)

/-- Every output a record names is owned by NONE (R4 check 5). -/
def State.outputsFree (s : State) (outputs : List (OutLine × OutRole)) : Bool :=
  outputs.all fun o => (s.lines.outputs.get o.1).owner == .none

/-- A program holds a WAIT segment (R70). -/
def State.hasWait (s : State) (p : Prog) : Bool := (s.segments p).any Segment.wait

/-- A PULSE_TRAIN without a trigger names a program with WAIT segments (R70). -/
def State.waitWithoutTrigger (s : State) (c : Common) (k : KindParams) : Bool :=
  match k.program? with
  | some p => c.trigger.isNone && s.hasWait p
  | none => false

/-- The program a PULSE_TRAIN names is not SEALED (R4 check 4). -/
def State.unsealed (s : State) (k : KindParams) : Bool :=
  match k.program? with
  | some p => (s.programs.get p).state != .sealed
  | none => false

/-- The record of a task as it is defined (R6). -/
def definedTask (s : State) (c : Common) (k : KindParams) : Task :=
  { state := .idle
    held := false
    common := c
    engine := k.defined s.segments
    runCount := 0
    overrunCount := 0
    faultReason := none
    startTime := 0
    tickPhase := 0
    clockDue := false }

/-- A program's reference count changed (R64). -/
def State.recount (s : State) (k : KindParams) (f : Nat → Nat) : State :=
  match k.program? with
  | some p => { s with programs := s.programs.modify p fun r => { r with refCount := f r.refCount } }
  | none => s

/-- The effects of a DEFINE_TASK that passes every check (R6). -/
def State.define (s : State) (k : Slot) (c : Common) (kind : KindParams) : State :=
  let s' := (s.setTask k (definedTask s c kind)).recount kind Nat.succ
  { s' with
    lines := (outputsOf c kind).foldl (fun u o => u.own k o) ((claimsOf c kind).foldl (fun u x => u.claim k x) s'.lines) }

/-- Steps 3 to 6 of DEFINE_TASK, and its effects (R4, R6). -/
def defineChecked (k : Slot) (f : Frame) (s : State) : State × Reply :=
  match recordOf? k f.payload with
  | none => refuse s .badParam
  | some (c, kind) =>
    if s.waitWithoutTrigger c kind then refuse s .badParam
    else if s.unsealed kind then refuse s .badState
    else if !s.outputsFree (outputsOf c kind) then refuse s .outputOwned
    else if !s.claimsFit (claimsOf c kind) then refuse s .claimsFull
    else (s.define k c kind, Reply.ok)

/-- DEFINE_TASK (R4). -/
def serveDefineTask (f : Frame) (s : State) : State × Reply :=
  if defineLenOk f.payload then
    match slotOf? (byteAt f.payload 0) with
    | none => refuse s .badParam
    | some k => if (s.task? k).isSome then refuse s .badState else defineChecked k f s
  else refuse s .badLength

/-- The effects of an accepted DELETE_TASK of the task `t` in slot `k` (R7); an update not yet taken goes with the
claims (R36; log 13). -/
def State.delete (s : State) (k : Slot) (t : Task) : State :=
  let s' := s.recount t.engine.params Nat.pred
  { s' with
    tasks := { slots := s'.tasks.slots.set k none, updates := s'.tasks.updates.set k none }
    lines :=
      { s'.lines with
        inputs := s'.lines.inputs.map fun i => { i with claims := i.claims.filter fun c => c.1 != k }
        outputs := s'.lines.outputs.map fun o => if o.ownedBy k then o.release else o } }

/-- A request that names one slot: the slot number's range, then what the slot holds (R3), an event that may still fault
the slot's task being over (R23, R25; log 8). -/
def onSlot (f : Frame) (s : State) (serve : Slot → State → Option Task → State × Reply) : State × Reply :=
  match slotOf? (byteAt f.payload 0) with
  | none => refuse s .badParam
  | some k => serve k (s.readyFor [k]) ((s.readyFor [k]).task? k)

/-- A request on a slot accepted in some states of its task and refused with BAD_STATE in the others and in FREE. -/
def inStates (s : State) (accepts : TaskState → Bool) (effect : Task → State) : Option Task → State × Reply
  | none => refuse s .badState
  | some t => if accepts t.state then (effect t, Reply.ok) else refuse s .badState

/-- The states in which a task may be deleted or armed (R7, R8). -/
def TaskState.atRest : TaskState → Bool
  | .idle => true
  | .armed => false
  | .running => false
  | .stopping => false
  | .done => true
  | .faulted => true

/-- DELETE_TASK (R7). -/
def serveDeleteTask (f : Frame) (s : State) : State × Reply :=
  withLen 1 f s (onSlot f s fun k s t => inStates s TaskState.atRest (fun t => s.delete k t) t)

/-! ### Arming -/

/-- The engine as ARM_TASK leaves it: an alert released, a POSITION at its preset (R8, R112, R127). -/
def Engine.armed : Engine → Engine
  | .pulseTrain p r => .pulseTrain p r
  | .eventCount p c => .eventCount p c
  | .span p r => .span p r
  | .windowCount p r => .windowCount p r
  | .position p r => .position p { r with position := p.preset, phaseErrors := 0, indexSeen := false }
  | .deadline p r => (Engine.deadline p r).released

/-- The record as ARM_TASK leaves it (R8). -/
def Task.armed (t : Task) : Task :=
  { t with
    state := .armed
    held := false
    engine := t.engine.armed
    runCount := 0
    overrunCount := 0
    faultReason := none
    clockDue := false }

/-- ARM_TASK (R8). -/
def serveArmTask (f : Frame) (s : State) : State × Reply :=
  withLen 1 f s
    (onSlot f s fun k s t =>
      inStates s TaskState.atRest (fun t => (s.setTask k t.armed).driveOpt t.engine.alertLine? false) t)

/-- The record as DISARM_TASK leaves it (R9). -/
def Task.disarmed (t : Task) : Task :=
  { t with state := .idle, held := false, engine := t.engine.released, clockDue := false }

/-- DISARM_TASK (R9): the alert released, the MARK pulse cut. -/
def serveDisarmTask (f : Frame) (s : State) : State × Reply :=
  withLen 1 f s
    (onSlot f s fun k s t =>
      inStates s (fun st => st == .armed) (fun t => (s.setTask k t.disarmed).restOutputs k) t)

/-! ### Starting -/

/-- The starts of some slots at the instant of a request, and their TASK_STARTEDs (R10, R11, R12). -/
def startSlots (slots : List Slot) (cause : StartCause) (s : State) : State :=
  let now := s.timebase.time
  let begun := (Work.of s).on fun s => slots.foldl (fun s k => s.beginRun k s.levelNow now) s
  (slots.foldl (fun w k => w.offerStarted k cause) begun).finish now

/-- START_TASK (R10). -/
def serveStartTask (f : Frame) (s : State) : State × Reply :=
  withLen 1 f s
    (onSlot f s fun k s t =>
      inStates s (fun st => st == .armed) (fun _ => s.requestEvent [k] (startSlots [k] .host)) t)

/-- The slots a START_GROUP mask names: bit i stands for slot Ti (R11, R196). -/
def maskSlots (mask : Nat) : List Slot := (indices 16).filter fun k => mask.testBit k.val

/-- A slot is ARMED. -/
def State.isArmed (s : State) (k : Slot) : Bool :=
  match s.task? k with
  | some t => t.state == .armed
  | none => false

/-- START_GROUP (R11). -/
def serveStartGroup (turns : Turns) (f : Frame) (s : State) : State × Reply :=
  withLen 2 f s
    (let slots := maskSlots (natAt f.payload 0 2)
     let s := s.readyFor slots
     if slots.isEmpty then refuse s .badParam
     else if slots.all s.isArmed then
       (s.requestEvent slots fun s => (startSlots slots .group s).takeTurns turns, Reply.ok)
     else refuse s .badState)

/-! ### Stopping -/

/-- The task of slot `k` ends at once in DONE: the run dropped, a WAVE output idle, TASK_DONE with this ending (R21,
R22). -/
def endRun (k : Slot) (t : Task) (ending : Ending) (s : State) : State :=
  (((Work.of s).on fun s => (s.setTask k (t.left .done)).idleWave t.engine).offer k
    (.taskDone ending t.engine.principal t.runCount t.overrunCount)).finish s.timebase.time

/-- A run in progress (R21). -/
def TaskState.inRun (st : TaskState) : Bool := st == .running || st == .stopping

/-- STOP_TASK with GRACEFUL (R22). -/
def gracefulStop (k : Slot) (t : Task) (s : State) : State :=
  if t.state = .stopping then s
  else if t.engine.finishes then s.setTask k { t with state := .stopping }
  else s.requestEvent [k] (endRun k t .stopped)

/-- STOP_TASK with mode GRACEFUL (R21, R22). -/
def serveStopGraceful (f : Frame) (s : State) : State × Reply :=
  onSlot f s fun k s t => inStates s TaskState.inRun (fun t => gracefulStop k t s) t

/-- STOP_TASK with mode ABORT (R21). -/
def serveStopAbort (f : Frame) (s : State) : State × Reply :=
  onSlot f s fun k s t => inStates s TaskState.inRun (fun t => s.requestEvent [k] (endRun k t .aborted)) t

/-- STOP_TASK with another mode, or of a wrong length (R21). -/
def serveStopTask (f : Frame) (s : State) : State × Reply := withLen 2 f s (refuse s .badParam)

/-! ### Reading a slot, and setting a position -/

/-- QUERY_TASK (R27). -/
def serveQueryTask (f : Frame) (s : State) : State × Reply :=
  withLen 1 f s (onSlot f s fun k s t => (s, Reply.okWith (queryData k t)))

/-- READ_COUNT (R28). -/
def serveReadCount (f : Frame) (s : State) : State × Reply :=
  withLen 1 f s (onSlot f s fun k s t => (s, Reply.okWith (countData k s.timebase.time t)))

/-- The engine with its position set; none for a kind other than POSITION (R122). -/
def Engine.setPosition? (v : Position) : Engine → Option Engine
  | .position p r => some (.position p { r with position := v })
  | .pulseTrain _ _ => none
  | .eventCount _ _ => none
  | .span _ _ => none
  | .windowCount _ _ => none
  | .deadline _ _ => none

/-- SET_POSITION (R122). -/
def serveSetPosition (f : Frame) (s : State) : State × Reply :=
  withLen 5 f s
    (onSlot f s fun k s t =>
      match t with
      | none => refuse s .badState
      | some t =>
        (match t.engine.setPosition? (BitVec.ofNat 32 (natAt f.payload 1 4)) with
         | some e => (s.setTask k { t with engine := e }, Reply.ok)
         | none => refuse s .badParam))

/-! ### The meanings -/

/-- DEFINE_TASK (R4). -/
def execDefineTask (s : State) : Host.Outcome State Fault Refusal := .next (takeRequest .defineTask serveDefineTask s)

/-- DELETE_TASK (R7). -/
def execDeleteTask (s : State) : Host.Outcome State Fault Refusal := .next (takeRequest .deleteTask serveDeleteTask s)

/-- ARM_TASK (R8). -/
def execArmTask (s : State) : Host.Outcome State Fault Refusal := .next (takeRequest .armTask serveArmTask s)

/-- DISARM_TASK (R9). -/
def execDisarmTask (s : State) : Host.Outcome State Fault Refusal := .next (takeRequest .disarmTask serveDisarmTask s)

/-- START_TASK (R10). -/
def execStartTask (s : State) : Host.Outcome State Fault Refusal := .next (takeRequest .startTask serveStartTask s)

/-- START_GROUP (R11). -/
def execStartGroup (turns : Turns) (s : State) : Host.Outcome State Fault Refusal :=
  .next (takeRequest .startGroup (serveStartGroup turns) s)

/-- STOP_TASK_GRACEFUL (R22). -/
def execStopTaskGraceful (s : State) : Host.Outcome State Fault Refusal :=
  .next (takeRequest .stopTaskGraceful serveStopGraceful s)

/-- STOP_TASK_ABORT (R21). -/
def execStopTaskAbort (s : State) : Host.Outcome State Fault Refusal :=
  .next (takeRequest .stopTaskAbort serveStopAbort s)

/-- STOP_TASK (R21). -/
def execStopTask (s : State) : Host.Outcome State Fault Refusal := .next (takeRequest .stopTask serveStopTask s)

/-- QUERY_TASK (R27). -/
def execQueryTask (s : State) : Host.Outcome State Fault Refusal := .next (takeRequest .queryTask serveQueryTask s)

/-- READ_COUNT (R28). -/
def execReadCount (s : State) : Host.Outcome State Fault Refusal := .next (takeRequest .readCount serveReadCount s)

/-- SET_POSITION (R122). -/
def execSetPosition (s : State) : Host.Outcome State Fault Refusal := .next (takeRequest .setPosition serveSetPosition s)

end Sys2Proof.Machine
end

