-- ==== Sys2Proof/Machine/TimeRequests.lean ====
section
/-! DEFINITION. The requests of the timebase (R52, R54) and the tick boundary (R50, R57). -/

namespace Sys2Proof.Machine

/-- A slot is ARMED, RUNNING or STOPPING (R52 check 2). -/
def Task.engaged (t : Task) : Bool := t.state == .armed || t.inRun

/-- Some slot is ARMED, RUNNING or STOPPING (R52 check 2). -/
def State.anyEngaged (s : State) : Bool :=
  s.tasks.slots.cells.any fun t =>
    match t with
    | some t => t.engaged
    | none => false

/-- The MARK pulse of an output cut, where one runs (R44, R52). -/
def Output.cutMark (o : Output) : Output := if o.markEnd.isSome then o.rest else o

/-- The effects of an accepted SET_TICK (R52).  Updates not yet taken are let go: no slot is ARMED, RUNNING or STOPPING,
so none has an effect (log 13). -/
def State.restartTime (s : State) (rate : TickRate) : State :=
  { s with
    tasks := { s.tasks with updates := Bank.fill 16 none }
    lines := { s.lines with outputs := s.lines.outputs.map Output.cutMark }
    timebase := { rate := rate, time := 0, epoch := s.timebase.epoch + 1 } }

/-- SET_TICK (R52).  The reports of the events before it enter the queue before its checks (R144). -/
def serveSetTick (f : Frame) (s : State) : State × Reply :=
  withLen 1 f s
    (match tickRateOf? (byteAt f.payload 0) with
     | none => refuse s .badParam
     | some rate =>
       let s := s.settle
       if s.anyEngaged then refuse s .badState
       else if s.reports.entries.any fun e => e.epoch == s.timebase.epoch + 1 then refuse s .badState
       else (s.restartTime rate, Reply.ok))

/-- GET_TIME (R54). -/
def serveGetTime (f : Frame) (s : State) : State × Reply := withLen 0 f s (s, Reply.okWith (timeData s.timebase))

/-- A slot has an event of the present instant still to take: a task clock or an expiry (log 4). -/
def Task.due (t : Task) : Bool := (t.works && t.clockDue) || (t.inRun && t.engine.expiryDue)

/-- An event of the present instant is still to be taken: an update, a task clock, an expiry, or the end of a MARK pulse.
No tick boundary falls before it is (log 4). -/
def State.instantOpen (s : State) : Bool :=
  s.tasks.updates.cells.any Option.isSome ||
    (s.tasks.slots.cells.any fun t =>
      match t with
      | some t => t.due
      | none => false) ||
    s.lines.outputs.cells.any fun o => o.markEnd == some s.timebase.time

/-- The record at a tick boundary (R56, R57): the tick phase of a working TIMEBASE task rises; at the divider it returns to
0 and a task clock falls. -/
def Task.ticked (t : Task) : Task :=
  match t.common.clock with
  | .timebase d =>
    if t.works then
      if d ≤ t.tickPhase + 1 then { t with tickPhase := 0, clockDue := true }
      else { t with tickPhase := t.tickPhase + 1 }
    else t
  | .line _ => t

/-- A tick boundary (R50, R57).  It waits for the events of the present instant (log 4), whose reports enter the queue
before it (R144), and none falls during a hard reset (R61). -/
def tick (s : State) : State :=
  if s.inReset.isSome || s.instantOpen then s
  else
    let s := s.settle
    { s with
      tasks := { s.tasks with slots := s.tasks.slots.map (Option.map Task.ticked) }
      timebase := { s.timebase with time := s.timebase.time + 1 } }

/-- SET_TICK (R52). -/
def execSetTick (s : State) : Host.Outcome State Fault Refusal := .next (takeRequest .setTick serveSetTick s)

/-- GET_TIME (R54). -/
def execGetTime (s : State) : Host.Outcome State Fault Refusal := .next (takeRequest .getTime serveGetTime s)

/-- TICK_BOUNDARY (R50). -/
def execTickBoundary (s : State) : Host.Outcome State Fault Refusal := .next (tick s)

end Sys2Proof.Machine
end

