-- ==== Sys2Proof/Machine/Dispatch.lean ====
section
/-! DEFINITION. The meaning of every command: one direct call an arm, in the order of spec/opcode_table.json. -/

namespace Sys2Proof.Machine

def exec (i : Instr) (s : State) : Host.Outcome State Fault Refusal :=
  match i with
  | .getIdentity => Sys2Proof.Machine.execGetIdentity s
  | .getLinkStatus => Sys2Proof.Machine.execGetLinkStatus s
  | .resetDeviceFull => Sys2Proof.Machine.execResetDeviceFull s
  | .resetDeviceTasks => Sys2Proof.Machine.execResetDeviceTasks s
  | .openSessionClean => Sys2Proof.Machine.execOpenSessionClean s
  | .openSessionResume => Sys2Proof.Machine.execOpenSessionResume s
  | .closeSession => Sys2Proof.Machine.execCloseSession s
  | .ackReports => Sys2Proof.Machine.execAckReports s
  | .resendReports => Sys2Proof.Machine.execResendReports s
  | .setTick => Sys2Proof.Machine.execSetTick s
  | .getTime => Sys2Proof.Machine.execGetTime s
  | .configInput => Sys2Proof.Machine.execConfigInput s
  | .configOutput => Sys2Proof.Machine.execConfigOutput s
  | .setOutputActive => Sys2Proof.Machine.execSetOutputActive s
  | .setOutputIdle => Sys2Proof.Machine.execSetOutputIdle s
  | .setOutputRelease => Sys2Proof.Machine.execSetOutputRelease s
  | .getLines => Sys2Proof.Machine.execGetLines s
  | .loadProgram => Sys2Proof.Machine.execLoadProgram s
  | .appendProgram => Sys2Proof.Machine.execAppendProgram s
  | .eraseProgram => Sys2Proof.Machine.execEraseProgram s
  | .getProgram => Sys2Proof.Machine.execGetProgram s
  | .defineTask => Sys2Proof.Machine.execDefineTask s
  | .deleteTask => Sys2Proof.Machine.execDeleteTask s
  | .armTask => Sys2Proof.Machine.execArmTask s
  | .disarmTask => Sys2Proof.Machine.execDisarmTask s
  | .startTask => Sys2Proof.Machine.execStartTask s
  | .startGroup turns => Sys2Proof.Machine.execStartGroup turns s
  | .stopTaskGraceful => Sys2Proof.Machine.execStopTaskGraceful s
  | .stopTaskAbort => Sys2Proof.Machine.execStopTaskAbort s
  | .queryTask => Sys2Proof.Machine.execQueryTask s
  | .readCount => Sys2Proof.Machine.execReadCount s
  | .setPosition => Sys2Proof.Machine.execSetPosition s
  | .unknownRequest => Sys2Proof.Machine.execUnknownRequest s
  | .rxByte byte => Sys2Proof.Machine.execRxByte byte s
  | .frameAbandoned => Sys2Proof.Machine.execFrameAbandoned s
  | .responsePlaced => Sys2Proof.Machine.execResponsePlaced s
  | .frameBoundary => Sys2Proof.Machine.execFrameBoundary s
  | .fullReset straps => Sys2Proof.Machine.execFullReset straps s
  | .hardReset cause => Sys2Proof.Machine.execHardReset cause s
  | .hardResetEnd straps => Sys2Proof.Machine.execHardResetEnd straps s
  | .sampleInstant levels => Sys2Proof.Machine.execSampleInstant levels s
  | .taskUpdate slot turns => Sys2Proof.Machine.execTaskUpdate slot turns s
  | .taskClock slot turns => Sys2Proof.Machine.execTaskClock slot turns s
  | .deadlineExpiry slot turns => Sys2Proof.Machine.execDeadlineExpiry slot turns s
  | .markExpiry line => Sys2Proof.Machine.execMarkExpiry line s
  | .tickBoundary => Sys2Proof.Machine.execTickBoundary s
  | .idleArbiterChoice => Sys2Proof.Machine.execIdleArbiterChoice s
  | .setOutput => Sys2Proof.Machine.execSetOutput s
  | .stopTask => Sys2Proof.Machine.execStopTask s
  | .resetDevice => Sys2Proof.Machine.execResetDevice s
  | .openSession => Sys2Proof.Machine.execOpenSession s

end Sys2Proof.Machine
end

