-- ==== Sys2Proof/Safety.lean ====
section
/-! DEFINITION. The terms the claims are stated in: what it is to take a request and to answer it, what a sound state of each
block is, and which task records the manual allows. -/

namespace Sys2Proof.Machine

/-! ### The bytes of responses, reports and task records, as the tables of R194 and R197 to R201 lay them out -/

/-- A number in two bytes, most significant first (R194). -/
def two (n : Nat) : List Byte := [BitVec.ofNat 8 (n / 256), BitVec.ofNat 8 n]

/-- A number in three bytes, most significant first (R194). -/
def three (n : Nat) : List Byte := BitVec.ofNat 8 (n / 65536) :: two n

/-- A number in four bytes, most significant first (R194). -/
def four (n : Nat) : List Byte := BitVec.ofNat 8 (n / 16777216) :: three n

/-- A number in six bytes, most significant first (R194). -/
def six (n : Nat) : List Byte := BitVec.ofNat 8 (n / 1099511627776) :: BitVec.ofNat 8 (n / 4294967296) :: four n

/-- A slot, line or program number (R194). -/
def numberLayout {n : Nat} (i : Fin n) : Byte := BitVec.ofNat 8 i.val

/-- A line that may be absent (R194). -/
def lineLayout {n : Nat} : Option (Fin n) → Byte
  | none => 0xFF
  | some l => BitVec.ofNat 8 l.val

/-- A flag (R194). -/
def flagLayout (b : Bool) : Byte := if b then 0x01 else 0x00

/-- An electrical level (R194). -/
def levelLayout : Level → Byte
  | .low => 0x00
  | .high => 0x01

/-- The tick rate of a rate code (R49, R194). -/
def tickLayout : TickRate → Byte
  | .quarterMicro => 0x00
  | .micro => 0x01
  | .tenMicro => 0x02
  | .hundredMicro => 0x03

/-- A reset cause (R194). -/
def causeLayout : ResetCause → Byte
  | .power => 0x01
  | .pin => 0x02
  | .full => 0x03
  | .tasks => 0x04

/-- The state of a slot that is not FREE (R194). -/
def stateLayout : TaskState → Byte
  | .idle => 0x01
  | .armed => 0x02
  | .running => 0x03
  | .stopping => 0x04
  | .done => 0x05
  | .faulted => 0x06

/-- The kind of a task (R194). -/
def kindLayout : KindParams → Byte
  | .pulseTrain _ => 0x01
  | .eventCount _ => 0x02
  | .span _ => 0x03
  | .windowCount _ => 0x04
  | .position _ => 0x05
  | .deadline _ => 0x06

/-- A trigger edge, ACTIVE_EDGE or INACTIVE_EDGE, and a gate sense, OPEN_WHEN_ACTIVE or OPEN_WHEN_INACTIVE (R194). -/
def senseLayout : Cond → Byte
  | .active => 0x00
  | .inactive => 0x01

/-- The measurement phase (R194). -/
def phaseLayout : Phase → Byte
  | .awaiting => 0x00
  | .counting => 0x01

/-- Offsets 1 to 19 of a task record, a field that is not used as its fixed value (R197). -/
def commonLayout (c : Common) (kind : KindParams) : List Byte :=
  kindLayout kind ::
  (match c.clock with
   | .timebase d => 0x00 :: 0xFF :: three d
   | .line l => 0x01 :: numberLayout l :: [0x00, 0x00, 0x00]) ++
  (match c.trigger with
   | none => [0xFF, 0x00]
   | some t => [numberLayout t.line, senseLayout t.edge]) ++
  (match c.start with
   | .host => [0x00, 0xFF]
   | .trigger => [0x01, 0xFF]
   | .after m => [0x02, numberLayout m]) ++
  (match c.gate with
   | none => [0xFF, 0x00]
   | some g => [numberLayout g.line, senseLayout g.openWhen]) ++
  [(match c.repeats with
    | .once => 0x00
    | .rearm => 0x01
    | .continuous => 0x02),
   (match c.policy with
    | .ignore => 0x00
    | .restart => 0x01
    | .fault => 0x02),
   (match c.reportClass with
    | .normal => 0x00
    | .critical => 0x01),
   flagLayout c.reportStart] ++
  (match c.mark with
   | none => [0xFF, 0x00, 0x00]
   | some m => numberLayout m.line :: two m.ticks)

/-- The kind block of a task record, a field that is not used as its fixed value (R197). -/
def blockLayout : KindParams → List Byte
  | .pulseTrain p => numberLayout p.wave :: numberLayout p.program :: two p.loops
  | .eventCount p => numberLayout p.signal :: four p.limit
  | .span p =>
    [numberLayout p.signal,
      (match p.mode with
       | .pulse => 0x00
       | .period => 0x01)]
  | .windowCount p =>
    numberLayout p.signal ::
      (match p.source with
       | .line w => [0x00, numberLayout w, 0x00, 0x00, 0x00, 0x00]
       | .duration d => 0x01 :: 0xFF :: four d)
  | .position p =>
    [numberLayout p.phaseA, numberLayout p.phaseB, lineLayout p.index,
      (match p.resolution with
       | .x1 => 0x00
       | .x2 => 0x01
       | .x4 => 0x02),
      flagLayout p.invert] ++ four p.preset.toNat ++
    [(match p.action with
      | .none => 0x00
      | .report => 0x01
      | .load => 0x02
      | .loadFirst => 0x03),
     (match p.indexPhase with
      | none => 0x00
      | some (.inactive, .inactive) => 0x01
      | some (.inactive, .active) => 0x02
      | some (.active, .inactive) => 0x03
      | some (.active, .active) => 0x04)] ++
    (match p.compare with
     | none => [0x00, 0x00, 0x00, 0x00, 0x00]
     | some c => 0x01 :: four c.toNat)
  | .deadline p => numberLayout p.kick :: (four p.minimum ++ four p.maximum ++ [lineLayout p.alert])

/-- A whole task record for slot `k` (R197). -/
def recordLayout (k : Slot) (c : Common) (kind : KindParams) : List Byte :=
  numberLayout k :: (commonLayout c kind ++ blockLayout kind)

/-- The data of QUERY_TASK (R200). -/
def queryLayout (k : Slot) : Option Task → List Byte
  | none => [numberLayout k, 0x00]
  | some a =>
    [numberLayout k, stateLayout a.state, flagLayout a.held] ++ two a.runCount ++ two a.overrunCount ++
    [(match a.faultReason with
      | none => 0x00
      | some .triggerOverrun => 0x01
      | some .reportLost => 0x02)] ++
    six a.startTime.toNat ++ commonLayout a.common a.engine.params ++ blockLayout a.engine.params

/-- The kind values of READ_COUNT (R200). -/
def valuesLayout : Engine → List Byte
  | .pulseTrain _ r => BitVec.ofNat 8 r.index :: (three r.remaining ++ two r.loopsDone ++ [flagLayout r.waiting])
  | .eventCount _ count => four count
  | .span _ r => phaseLayout r.phase :: four r.count
  | .windowCount _ r => phaseLayout r.phase :: four r.count
  | .position _ r => four r.position.toNat ++ two r.phaseErrors ++ [flagLayout r.indexSeen]
  | .deadline _ r => four r.elapsed ++ [flagLayout r.alert]

/-- The data of READ_COUNT at device time `now` (R200). -/
def countLayout (k : Slot) (now : Time) : Option Task → List Byte
  | none => [numberLayout k, 0x00] ++ six now.toNat
  | some a =>
    [numberLayout k, stateLayout a.state] ++ six now.toNat ++ [kindLayout a.engine.params] ++ valuesLayout a.engine

/-- The four bytes of a segment: the control byte and the duration (R198). -/
def segmentLayout (g : Segment) : List Byte :=
  BitVec.ofNat 8
    ((if g.level = .active then 1 else 0) + (if g.reportEnd then 4 else 0) + (if g.wait then 8 else 0)) ::
  three g.duration

/-- The data of GET_PROGRAM from the first index (R198). -/
def programLayout (p : Program) (first : Nat) : List Byte :=
  [(match p.state with
    | .empty => 0x00
    | .loading => 0x01
    | .sealed => 0x02),
   BitVec.ofNat 8 p.segments.length, BitVec.ofNat 8 p.refCount,
   BitVec.ofNat 8 (min 28 (p.segments.length - first))] ++
  ((p.segments.drop first).take 28).flatMap segmentLayout

/-- The five bytes of an input (R199). -/
def inputLayout (i : Input) : List Byte :=
  [levelLayout i.raw,
   (match i.cond with
    | .inactive => 0x00
    | .active => 0x01),
   (match i.polarity with
    | .activeHigh => 0x00
    | .activeLow => 0x01),
   BitVec.ofNat 8 i.filter, BitVec.ofNat 8 i.claims.length]

/-- The four bytes of an output (R199). -/
def outputLayout (o : Output) : List Byte :=
  [levelLayout o.level, levelLayout o.idle] ++
  (match o.owner with
   | .none => [0xFF, 0x00]
   | .host => [0xFE, 0x00]
   | .task k .wave => [numberLayout k, 0x01]
   | .task k .mark => [numberLayout k, 0x02]
   | .task k .alert => [numberLayout k, 0x03])

/-- A claim of a line: its slot and its role (R199). -/
def claimLayout (c : Slot × InRole) : List Byte :=
  [numberLayout c.1,
   (match c.2 with
    | .clock => 0x01
    | .trigger => 0x02
    | .gate => 0x03
    | .signal => 0x04
    | .window => 0x05
    | .phaseA => 0x06
    | .phaseB => 0x07
    | .index => 0x08
    | .kick => 0x09)]

/-- The data of GET_LINES (R46, R199). -/
def linesLayout (u : LineUnit) (detail : Option InLine) : List Byte :=
  ((List.finRange 12).flatMap fun l => inputLayout (u.inputs.get l)) ++
  ((List.finRange 8).flatMap fun l => outputLayout (u.outputs.get l)) ++
  (match detail with
   | none => [0xFF, 0x00]
   | some l =>
     numberLayout l :: BitVec.ofNat 8 (u.inputs.get l).claims.length ::
       (u.inputs.get l).claims.flatMap claimLayout)

/-- The kind code and the values of a report (R140, R194, R201). -/
def reportLayout : Report → Byte × List Byte
  | .deviceReset cause => (0x01, [causeLayout cause])
  | .gap count _ => (0x02, two count)
  | .taskStarted cause =>
    (0x10,
      [(match cause with
        | .host => 0x01
        | .group => 0x02
        | .trigger => 0x03
        | .after => 0x04)])
  | .taskDone ending final runs overruns =>
    (0x11,
      (match ending with
       | .complete => 0x01
       | .stopped => 0x02
       | .aborted => 0x03) :: (four final.toNat ++ two runs ++ two overruns))
  | .taskFault reason value =>
    (0x12,
      (match reason with
       | .triggerOverrun => 0x01
       | .reportLost => 0x02) :: four value.toNat)
  | .taskRestarted value overruns => (0x13, four value.toNat ++ two overruns)
  | .trainEnd loops => (0x20, two loops)
  | .segmentEnd index loops => (0x21, BitVec.ofNat 8 index :: two loops)
  | .countLimit limit crossings => (0x28, four limit ++ two crossings)
  | .spanResult count start overrange => (0x29, four count ++ six start.toNat ++ [flagLayout overrange])
  | .windowResult count length => (0x2A, four count ++ four length)
  | .positionIndex before after => (0x30, four before.toNat ++ four after.toNat)
  | .positionCompare position direction =>
    (0x31,
      four position.toNat ++
        [(match direction with
          | .up => 0x00
          | .down => 0x01)])
  | .phaseError position count => (0x32, four position.toNat ++ two count)
  | .deadlineViolation type elapsed =>
    (0x38,
      (match type with
       | .early => 0x01
       | .late => 0x02) :: four elapsed)

/-- The record of a report-queue entry (R201). -/
def entryLayout (e : Entry) : List Byte :=
  two e.seq.toNat ++
  [(reportLayout e.report).1,
   (match e.source with
    | .device => 0xFF
    | .slot k => numberLayout k),
   e.epoch] ++
  six e.time.toNat ++ (reportLayout e.report).2

/-- The whole frame of a payload: SYNC, LEN, TYPE, TAG, the payload and the CRC over all but SYNC, its high byte first (R174,
R195). -/
def frameLayout (type tag : Byte) (payload : List Byte) : List Byte :=
  let covered := BitVec.ofNat 8 payload.length :: type :: tag :: payload
  0x5A :: covered ++ [(crcOf covered).extractLsb' 8 8, (crcOf covered).extractLsb' 0 8]

/-! ### Taking and answering a request -/

/-- The interpreter is free to take the frame `f`, which is of the row `q`, with `rest` behind it (R183). -/
structure Taking (s : State) (q : Request) (f : Frame) (rest : List Frame) : Prop where
  outOfReset : s.inReset = none
  free : s.link.interpreter = .free
  oldest : s.link.requests = f :: rest
  row : f.request = q

/-- The row of the table that serves a command, where the command is the taking of a request (R183). -/
def rowOf : Instr → Option Request
  | .getIdentity => some .getIdentity
  | .getLinkStatus => some .getLinkStatus
  | .resetDeviceFull => some .resetDeviceFull
  | .resetDeviceTasks => some .resetDeviceTasks
  | .openSessionClean => some .openSessionClean
  | .openSessionResume => some .openSessionResume
  | .closeSession => some .closeSession
  | .ackReports => some .ackReports
  | .resendReports => some .resendReports
  | .setTick => some .setTick
  | .getTime => some .getTime
  | .configInput => some .configInput
  | .configOutput => some .configOutput
  | .setOutputActive => some .setOutputActive
  | .setOutputIdle => some .setOutputIdle
  | .setOutputRelease => some .setOutputRelease
  | .getLines => some .getLines
  | .loadProgram => some .loadProgram
  | .appendProgram => some .appendProgram
  | .eraseProgram => some .eraseProgram
  | .getProgram => some .getProgram
  | .defineTask => some .defineTask
  | .deleteTask => some .deleteTask
  | .armTask => some .armTask
  | .disarmTask => some .disarmTask
  | .startTask => some .startTask
  | .startGroup _ => some .startGroup
  | .stopTaskGraceful => some .stopTaskGraceful
  | .stopTaskAbort => some .stopTaskAbort
  | .queryTask => some .queryTask
  | .readCount => some .readCount
  | .setPosition => some .setPosition
  | .unknownRequest => some .unknown
  | .rxByte _ => none
  | .frameAbandoned => none
  | .responsePlaced => none
  | .frameBoundary => none
  | .fullReset _ => none
  | .hardReset _ => none
  | .hardResetEnd _ => none
  | .sampleInstant _ => none
  | .taskUpdate _ _ => none
  | .taskClock _ _ => none
  | .deadlineExpiry _ _ => none
  | .markExpiry _ => none
  | .tickBoundary => none
  | .idleArbiterChoice => none
  | .setOutput => some .setOutput
  | .stopTask => some .stopTask
  | .resetDevice => some .resetDevice
  | .openSession => some .openSession

/-- The status byte (R195). -/
def statusLayout : Status → Byte
  | .ok => 0x00
  | .busy => 0x01
  | .unknownRequest => 0x02
  | .badLength => 0x03
  | .badParam => 0x04
  | .badState => 0x05
  | .lineInUse => 0x06
  | .outputOwned => 0x07
  | .claimsFull => 0x08
  | .noSpace => 0x09
  | .programInUse => 0x0A
  | .noSession => 0x0B
  | .badAck => 0x0C

/-- The response frame to a request (R184, R195): the status, and the data that an OK carries. -/
def responseTo (f : Frame) (status : Status) (data : List Byte) : OutFrame :=
  { type := if 0x01 ≤ f.type.toNat ∧ f.type.toNat ≤ 0x3F then f.type + 0x40 else 0x40
    tag := f.tag
    payload := statusLayout status :: data
    endsInFullReset := false }

/-- The link once the oldest request has been taken, leaving `rest`, and its response `r` offered (R183, R185): placed where
one of the four places is free, and held by the waiting interpreter otherwise. -/
def Link.answered (l : Link) (rest : List Frame) (r : OutFrame) : Link :=
  if l.responses.length < 4 then { l with requests := rest, responses := l.responses ++ [r], interpreter := .free }
  else { l with requests := rest, interpreter := .waiting r }

/-- The state `e` that the effects of the request `f` leave, once `f` is answered: nothing but the link differs from `e`. -/
def State.answered (e : State) (rest : List Frame) (f : Frame) (status : Status) (data : List Byte) : State :=
  { e with link := e.link.answered rest (responseTo f status data) }

/-- The link once a BUSY response or a link notice has been offered (R180, R181): appended, or dropped and counted. -/
def Link.noticed (l : Link) (r : OutFrame) : Link :=
  if l.responses.length < 4 then { l with responses := l.responses ++ [r] }
  else { l with droppedFrames := min 65535 (l.droppedFrames + 1) }

/-! ### Running commands one after another -/

/-- The commands of `cs` carried out in turn, for as long as each answers a next state. -/
def runCommands : List Instr → State → Option State
  | [], s => some s
  | c :: cs, s =>
    match exec c s with
    | .next t => runCommands cs t
    | .fault _ => none
    | .refused _ => none

/-! ### Sound states, block by block -/

/-- The report queue and the session as R143, R145, R148, R149, R150, R152 and R157 keep them. -/
structure ReportQueue.Sound (q : ReportQueue) : Prop where
  /-- At most 64 entries (R145). -/
  places : q.entries.length ≤ 64
  /-- At most 63 entries that are not GAP reports (R145). -/
  ordinary : (q.entries.filter fun e => !e.isGap).length ≤ 63
  /-- Consecutive numbers, the last one just below the next sequence (R143). -/
  numbered : q.entries.map Entry.seq =
    (List.range q.entries.length).map fun i => q.nextSeq - BitVec.ofNat 16 (q.entries.length - i)
  /-- The 64th place is taken by a GAP alone (R145). -/
  lastPlace : q.entries.length = 64 → (q.entries.getLast?.map Entry.isGap) = some true
  /-- A loss waits only behind 64 entries whose tail GAP is no longer open (R152). -/
  lostWaits : 0 < q.lostCount → q.entries.length = 64 ∧ q.tailOpenGap = false
  /-- The range of lost_count (R142). -/
  lostRange : q.lostCount ≤ 65535
  /-- The range of a GAP count (R140). -/
  gapRange : ∀ e ∈ q.entries, ∀ count isOpen, e.report = .gap count isOpen → 1 ≤ count ∧ count ≤ 65535
  /-- An open GAP is PENDING (R148). -/
  openPending : ∀ e ∈ q.entries, e.isOpenGap = true → e.delivery = .pending
  /-- The SENT entries are the oldest (R157). -/
  sentFirst : ∃ sent pending, q.entries = sent ++ pending ∧ (∀ e ∈ sent, e.delivery = .sent) ∧
    ∀ e ∈ pending, e.delivery = .pending
  /-- No entry is SENT while the session is CLOSED (R157). -/
  closedUnsent : q.session = none → ∀ e ∈ q.entries, e.delivery = .pending
  /-- The window is 1 to 32, and no more entries are SENT than it allows (R157). -/
  windowed : ∀ w, q.session = some w → 1 ≤ w ∧ w ≤ 32 ∧ q.sentCount ≤ w

/-- The frame being received agrees with its bytes (R176): LEN is 0 to 120, and the running CRC covers LEN, TYPE, TAG and
the payload so far. -/
def Receiver.Sound : Receiver → Prop
  | .hunting => True
  | .length => True
  | .body len bytes crc =>
    len ≤ 120 ∧ bytes.length ≤ len + 3 ∧ crc = crcOf (BitVec.ofNat 8 len :: bytes.take (len + 2))

/-- The OK of an accepted RESET_DEVICE FULL is on its way: in the response queue, or in transmission (R192). -/
def Link.ResetOkOnItsWay (l : Link) : Prop :=
  (∃ f ∈ l.responses, f.endsInFullReset = true) ∨ ∃ t, l.transmission = some t ∧ t.endsInFullReset = true

/-- The link as R176, R182, R183, R188 and R192 keep it: the queues hold four, the counters stay in range, and the
interpreter is stopped exactly while the OK of RESET_DEVICE FULL is held or on its way. -/
structure Link.Sound (l : Link) : Prop where
  receiver : l.receiver.Sound
  requests : l.requests.length ≤ 4
  responses : l.responses.length ≤ 4
  crcErrors : l.crcErrors ≤ 65535
  oversizeFrames : l.oversizeFrames ≤ 65535
  abandonedFrames : l.abandonedFrames ≤ 65535
  droppedFrames : l.droppedFrames ≤ 65535
  /-- A waiting interpreter holds an ordinary response, a stopped one the OK of the reset. -/
  waitingOrdinary : ∀ f, l.interpreter = .waiting f → f.endsInFullReset = false
  heldOk : ∀ f, l.interpreter = .stopped (some f) → f.endsInFullReset = true
  stoppedIff : l.interpreter = .stopped none ↔ l.ResetOkOnItsWay

/-- Slot `k` holds a PULSE_TRAIN task that names program `p` (R64). -/
def State.names (s : State) (k : Slot) (p : Prog) : Bool :=
  match s.task? k with
  | some t => t.engine.params.program? == some p
  | none => false

/-- The segment store as R62, R63 and R64 keep it. -/
structure State.StoreSound (s : State) : Prop where
  /-- The reference count is the number of slots that name the program (R64). -/
  counted : ∀ p, (s.programs.get p).refCount = ((indices 16).filter fun k => s.names k p).length
  /-- A program in use is SEALED (R64). -/
  inUseSealed : ∀ p, (s.programs.get p).refCount ≠ 0 → (s.programs.get p).state = .sealed
  /-- The programs fit the pool of 256 cells (R62). -/
  pool : usedCells s.programs ≤ 256
  /-- A program holds at most 128 segments (R62). -/
  lengths : ∀ p, (s.programs.get p).segments.length ≤ 128
  /-- A program is EMPTY exactly when it holds no segment (R62). -/
  emptyIff : ∀ p, (s.programs.get p).state = .empty ↔ (s.programs.get p).segments = []
  /-- Every segment lasts 1 to 16,777,215 task clocks (R63). -/
  durations : ∀ p, ∀ g ∈ (s.programs.get p).segments, 1 ≤ g.duration ∧ g.duration ≤ 16777215

/-- The claim map and the output owners agree with the task records (R2, R6, R35, R39). -/
structure State.OwnershipSound (s : State) : Prop where
  /-- A line carries a slot's claim in a role exactly when the slot's task needs it (R2, R35). -/
  claims : ∀ l k r, (k, r) ∈ (s.lines.inputs.get l).claims ↔
    ∃ t, s.task? k = some t ∧ (l, r) ∈ claimsOf t.common t.engine.params
  /-- Four places a line (R35). -/
  places : ∀ l, (s.lines.inputs.get l).claims.length ≤ 4
  /-- No claim twice, and the listing order of R46. -/
  ordered : ∀ l, (s.lines.inputs.get l).claims.Pairwise fun c d => claimRank c < claimRank d
  /-- A line is owned by a slot in a role exactly when the slot's task names it so (R2, R39). -/
  owners : ∀ l k r, (s.lines.outputs.get l).owner = .task k r ↔
    ∃ t, s.task? k = some t ∧ (l, r) ∈ outputsOf t.common t.engine.params

/-- The levels of the outputs outside a hard reset (R39, R43, R44, R71, R133). -/
structure State.OutputsSound (s : State) : Prop where
  /-- A line without an owner stands at its idle level (R39). -/
  unowned : ∀ l, (s.lines.outputs.get l).owner = .none →
    (s.lines.outputs.get l).level = (s.lines.outputs.get l).idle
  /-- A MARK pulse runs only on a line owned in role MARK (R39). -/
  pulses : ∀ l, (s.lines.outputs.get l).markEnd ≠ none → ∃ k, (s.lines.outputs.get l).owner = .task k .mark
  /-- A MARK line is active exactly while a pulse runs (R43, R44). -/
  marks : ∀ l k, (s.lines.outputs.get l).owner = .task k .mark →
    ((s.lines.outputs.get l).level ≠ (s.lines.outputs.get l).idle ↔ (s.lines.outputs.get l).markEnd ≠ none)
  /-- A WAVE line stands idle while its task is neither RUNNING nor STOPPING (R71). -/
  waves : ∀ l k t, (s.lines.outputs.get l).owner = .task k .wave → s.task? k = some t → t.inRun = false →
    (s.lines.outputs.get l).level = (s.lines.outputs.get l).idle
  /-- A WAVE line stands in a run at the level of the current segment (R71). -/
  played : ∀ l k t p r g, (s.lines.outputs.get l).owner = .task k .wave → s.task? k = some t → t.inRun = true →
    t.engine = .pulseTrain p r → (s.segments p.program)[r.index]? = some g →
    ((s.lines.outputs.get l).level ≠ (s.lines.outputs.get l).idle ↔ g.level = .active)
  /-- An ALERT line is active exactly while the alert flag is yes (R133). -/
  alerts : ∀ l k t p r, (s.lines.outputs.get l).owner = .task k .alert → s.task? k = some t →
    t.engine = .deadline p r →
    ((s.lines.outputs.get l).level ≠ (s.lines.outputs.get l).idle ↔ r.alert = true)

/-- The ranges of a kind's run state, and what holds of it in a run (R72, R88, R89, R94, R98, R103, R105, R112, R127,
R128): in a run a PULSE_TRAIN stands in a segment of its program with 1 to all of its task clocks remaining, and a window
of source DURATION is open with a length below the duration. -/
def Engine.Sound (segments : Prog → List Segment) (inRun : Bool) : Engine → Prop
  | .pulseTrain p r =>
    r.loopsDone ≤ 65535 ∧
      (inRun = true →
        ∃ g, (segments p.program)[r.index]? = some g ∧ 1 ≤ r.remaining ∧ r.remaining ≤ g.duration)
  | .eventCount p count => 1 ≤ p.limit ∧ count ≤ p.limit ∧ (inRun = true → count < p.limit)
  | .span _ r => r.count ≤ 4294967295 ∧ (inRun = true → r.count < 4294967295)
  | .windowCount p r =>
    r.count ≤ 4294967295 ∧ r.length ≤ 4294967295 ∧
      (inRun = true → r.count < 4294967295 ∧ r.length < 4294967295) ∧
      ∀ d, p.source = .duration d → 1 ≤ d ∧ (inRun = true → r.phase = .counting ∧ r.length < d)
  | .position _ r => r.phaseErrors ≤ 65535
  | .deadline p r =>
    p.minimum < p.maximum ∧ r.elapsed ≤ p.maximum ∧
      (r.expiryDue = true → inRun = true ∧ r.elapsed = p.maximum) ∧
      (inRun = true → r.expiryDue = false → r.elapsed < p.maximum)

/-- A task record as R1, R2, R17, R22, R24, R56 and the kind chapters keep it. -/
structure Task.Sound (segments : Prog → List Segment) (t : Task) : Prop where
  /-- held is yes only in a run of a task with a gate (R1, R17). -/
  held : t.held = true → t.inRun = true ∧ t.common.gate ≠ none
  /-- The fault reason is present exactly in FAULTED (R1). -/
  reason : t.faultReason ≠ none ↔ t.state = .faulted
  /-- Both counts saturate at 65535 (R1). -/
  counts : t.runCount ≤ 65535 ∧ t.overrunCount ≤ 65535
  /-- The tick phase is 0 to D − 1 (R56); a LINE clock has none. -/
  phase : match t.common.clock with
    | .timebase d => t.tickPhase < d
    | .line _ => t.tickPhase = 0
  /-- A task clock is due only at a working engine of a TIMEBASE clock (R56; log 5). -/
  due : t.clockDue = true → t.works = true ∧ ∃ d, t.common.clock = .timebase d
  /-- Only a run that can finish is STOPPING (R22, R95, R113, R131). -/
  stopping : t.state = .stopping → t.engine.finishes = true
  engine : t.engine.Sound segments t.inRun

/-- Every task record is sound. -/
def State.TasksSound (s : State) : Prop := ∀ k t, s.task? k = some t → t.Sound s.segments

/-- Every conditioner as R31 and R33 keep it: a filter of 0 to 63, and a candidate of 1 to the filter. -/
def State.ConditionersSound (s : State) : Prop :=
  ∀ l, (s.lines.inputs.get l).filter ≤ 63 ∧
    ∀ n, (s.lines.inputs.get l).candidate = some n → 1 ≤ n ∧ n ≤ (s.lines.inputs.get l).filter

/-- The updates not yet taken and the open events are of the present instant (R37, R55, R144; logs 4 and 8), and none is left
in a hard reset. -/
structure State.EventsSound (s : State) : Prop where
  /-- A view carries the time of its sample instant, which is not over. -/
  views : ∀ k v, s.tasks.updates.get k = some v → v.time = s.timebase.time
  /-- So does an open event, with the epoch in force. -/
  ofThisInstant : ∀ e ∈ s.events, e.epoch = s.timebase.epoch ∧ e.time = s.timebase.time
  /-- An event is open only while an offer of it waits. -/
  waiting : ∀ e ∈ s.events, e.offers ≠ []
  /-- A hard reset lets both go (log 13). -/
  cut : s.inReset ≠ none → s.events = [] ∧ ∀ k, s.tasks.updates.get k = none

/-- Every response fits a frame (R174), as every list of claims fits a line (R35). -/
structure State.FramesFit (s : State) : Prop where
  claims : ∀ l, (s.lines.inputs.get l).claims.length ≤ 4
  queued : ∀ f ∈ s.link.responses, f.payload.length ≤ 120
  held : ∀ f, s.link.interpreter.held = some f → f.payload.length ≤ 120
  sending : ∀ t, s.link.transmission = some t → t.bytes.length ≤ 126

/-! ### The task records the manual allows -/

/-- The kind parameters in their ranges, and consistent with the common fields (R5, R70, R86, R87, R93, R102, R110, R111,
R126). -/
def KindParams.Allowed (c : Common) : KindParams → Prop
  | .pulseTrain p => c.mark = none ∧ p.loops ≤ 65535
  | .eventCount p => (∃ d, c.clock = .timebase d) ∧ 1 ≤ p.limit ∧ p.limit ≤ 4294967295
  | .span p => c.clock ≠ .line p.signal
  | .windowCount p =>
    c.clock ≠ .line p.signal ∧
      (match p.source with
       | .line w => w ≠ p.signal ∧ c.clock ≠ .line w
       | .duration d => 1 ≤ d ∧ d ≤ 4294967295)
  | .position p =>
    c.gate = none ∧ c.repeats = .once ∧ c.clock = .timebase 1 ∧ p.phaseA ≠ p.phaseB ∧
      p.index ≠ some p.phaseA ∧ p.index ≠ some p.phaseB ∧
      (p.index = none → p.action = .none ∧ p.indexPhase = none)
  | .deadline p =>
    c.mark = none ∧ c.clock ≠ .line p.kick ∧ p.minimum < p.maximum ∧ p.maximum ≤ 4294967295

/-- A task record that DEFINE_TASK accepts for slot `k`, but for the program and the lines as they stand (R1, R5). -/
structure RecordAllowed (k : Slot) (c : Common) (kind : KindParams) : Prop where
  divider : ∀ d, c.clock = .timebase d → 1 ≤ d ∧ d ≤ 65536
  /-- Start TRIGGER has a trigger. -/
  triggered : c.start = .trigger → c.trigger ≠ none
  /-- AFTER names another slot. -/
  otherSlot : c.start ≠ .after k
  markLength : ∀ m, c.mark = some m → 1 ≤ m.ticks ∧ m.ticks ≤ 65535
  parameters : kind.Allowed c
  /-- No output in two roles. -/
  outputs : ((outputsOf c kind).map Prod.fst).Nodup

/-! ### What a start, a completion and an event leave -/

/-- The blocks that no event of an engine, no request on a slot and no turn of the queue changes: all but the slots, the
output lines, the report queue, the open events and the link. -/
structure OtherBlocksKept (s t : State) : Prop where
  pending : t.pending = s.pending
  inReset : t.inReset = s.inReset
  inputs : t.lines.inputs = s.lines.inputs
  sampled : t.lines.sampled = s.lines.sampled
  timebase : t.timebase = s.timebase
  programs : t.programs = s.programs

/-- `e'` is the initial form of the run state at a start or restart of a task with engine `e`, at the levels `level` (R72,
R88, R94, R103, R112, R127). -/
def Engine.StartsAs (segments : Prog → List Segment) (level : InLine → Cond) : Engine → Engine → Prop
  | .pulseTrain p _, .pulseTrain p' r =>
    p' = p ∧ r.index = 0 ∧ r.loopsDone = 0 ∧
      ∀ g, (segments p.program)[0]? = some g → r.remaining = g.duration ∧ r.waiting = g.wait
  | .eventCount p _, .eventCount p' count => p' = p ∧ count = 0
  | .span p _, .span p' r => p' = p ∧ r = { phase := .awaiting, count := 0, spanStart := 0 }
  | .windowCount p _, .windowCount p' r =>
    p' = p ∧ r.count = 0 ∧ r.length = 0 ∧ (r.phase = .counting ↔ ∃ d, p.source = .duration d)
  | .position p r, .position p' r' =>
    p' = p ∧ r' = { r with indexSeen := false, indexLevel := p.indexCondition level }
  | .deadline p r, .deadline p' r' => p' = p ∧ r' = { r with elapsed := 0, expiryDue := false }
  | _, _ => False

/-- From `s` to `t` a run of slot `k` has begun at `now`, with the levels `level` (R12 steps 1 to 4, R16 step 4): the record
is RUNNING, held by its gate, in its initial form, with its run count and its fields as they were and its overrun count
`overruns` of what it was; and the WAVE line of a PULSE_TRAIN shows segment 0 (R73). -/
def Started (s t : State) (k : Slot) (level : InLine → Cond) (now : Time) (overruns : Nat → Nat) : Prop :=
  ∃ a b, s.task? k = some a ∧ t.task? k = some b ∧ b.state = .running ∧ b.common = a.common ∧
    (b.held = true ↔ ∃ g, a.common.gate = some g ∧ level g.line ≠ g.openWhen) ∧
    a.engine.StartsAs s.segments level b.engine ∧ b.runCount = a.runCount ∧
    b.overrunCount = overruns a.overrunCount ∧ b.faultReason = a.faultReason ∧
    b.startTime = now ∧ b.tickPhase = 0 ∧ b.clockDue = false ∧
    ∀ p r g, a.engine = .pulseTrain p r → (s.segments p.program)[0]? = some g →
      ((t.lines.outputs.get p.wave).level = (s.lines.outputs.get p.wave).idle ↔ g.level = .inactive)

/-- Slot `k`, whose record is `a`, offers a report with the class of its task (R138). -/
def offerOf (k : Slot) (a : Task) (r : Report) : Offer := { slot := k, reportClass := a.common.reportClass, report := r }

/-- The state with the offers of one event at `now` waiting for the queue: `own` in this order, and then `free` in any order
(R138, R147; log 8).  An event that offers nothing leaves nothing. -/
def State.offering (s : State) (now : Time) (own free : List Offer) : State :=
  if own = [] ∧ free = [] then s
  else
    { s with events := s.events ++ [{ epoch := s.timebase.epoch, time := now, own := own, free := free, lost := [] }] }

/-- The TASK_STARTED of slot `k`, whose record is `a`, where report_start is yes (R12). -/
def startOffers (k : Slot) (a : Task) (cause : StartCause) : List Offer :=
  if a.common.reportStart then [offerOf k a (.taskStarted cause)] else []

/-- The offers of a completion after its result report: TASK_DONE where the task comes to DONE, and TASK_STARTED of each
dependent with report_start (R12, R13, R19, R20, R26). -/
def laterOffers (s : State) (k : Slot) (a : Task) (final : BitVec 32) : List Offer :=
  (if a.state = .stopping then
      [offerOf k a (.taskDone .stopped final (min 65535 (a.runCount + 1)) a.overrunCount)]
    else if a.common.repeats = .once then
      [offerOf k a (.taskDone .complete final (min 65535 (a.runCount + 1)) a.overrunCount)]
    else []) ++
  (s.dependents k).flatMap fun j => (s.task? j).elim [] fun d => startOffers j d .after

/-- From `s` to `t` the run of slot `k`, whose record was `a`, has completed at `now` with the reports `first` and the final
value `final`, and left the engine `e` (R13, R19, R20). -/
structure Completed (s t : State) (k : Slot) (a : Task) (now : Time) (first : List Report) (final : BitVec 32)
    (e : Engine) : Prop where
  record : ∃ b, t.task? k = some b ∧ b.common = a.common ∧ b.runCount = min 65535 (a.runCount + 1) ∧
    b.overrunCount = a.overrunCount ∧ b.faultReason = a.faultReason ∧ b.engine = e ∧
    (b.state, b.held, b.startTime) =
      (if a.state = .stopping then (.done, false, a.startTime)
       else match a.common.repeats with
         | .once => (.done, false, a.startTime)
         | .rearm => (.armed, false, a.startTime)
         | .continuous => (.running, a.held, now)) ∧
    (b.state = .running → b.tickPhase = 0 ∧ b.clockDue = false)
  dependents : ∀ j ∈ s.dependents k, Started s t j s.levelNow now id
  others : ∀ j, j ≠ k → j ∉ s.dependents k → t.task? j = s.task? j
  /-- The reports of the completing task up to its result keep their order; its TASK_DONE and the dependents' TASK_STARTEDs
  follow in any order (R19, R147). -/
  offers : t.events = (s.offering now (first.map (offerOf k a)) (laterOffers s k a final)).events
  reports : t.reports = s.reports
  blocks : OtherBlocksKept s t
  link : t.link = s.link
  updates : ∀ j, j ≠ k → t.tasks.updates.get j = s.tasks.updates.get j

/-- Slot `k` is about to take the update `v` with the record `a`, and no earlier event may still fault it or a slot ARMED
with AFTER on it (R14, R25; log 8). -/
structure TakesUpdate (s : State) (k : Slot) (v : View) (a : Task) : Prop where
  outOfReset : s.inReset = none
  update : s.tasks.updates.get k = some v
  record : s.task? k = some a
  decided : ∀ j ∈ s.concerned k, s.undecided j = false

/-- What steps 1 and 2 of the update `v` make of the record `b` of a run in progress (R14): the gate's change (R17, R58), then
a trigger edge that releases a WAIT segment (R77), or is an overrun that STOPPING or policy IGNORE counts alone (R15).
None where the trigger edge restarts or faults the task. -/
def Task.reads (b : Task) (v : View) : Option Task :=
  let gated : Task :=
    match b.common.gate with
    | none => b
    | some g =>
      if v.changeOf g.line = none then b
      else if v.changeOf g.line = some g.openWhen then { b with held := false }
      else { b with held := true, tickPhase := 0, clockDue := false }
  let overrun : Option Task :=
    if b.state = .stopping ∨ b.common.policy = .ignore then
      some { gated with overrunCount := min 65535 (b.overrunCount + 1) }
    else none
  if v.triggerEdge b.common = false then some gated
  else
    match b.engine with
    | .pulseTrain p r =>
      if r.waiting then some { gated with engine := .pulseTrain p { r with waiting := false } } else overrun
    | _ => overrun

/-- Slot `k` takes the update `v` with its engine at work: a run in progress that steps 1 and 2 of the update (R14) leave
with the record `a`, not held, so that the working edges are then taken. -/
structure Works (s : State) (k : Slot) (v : View) (a : Task) : Prop where
  taken : ∃ b, TakesUpdate s k v b ∧ (b.state = .running ∨ b.state = .stopping) ∧ b.reads v = some a
  unheld : a.held = false

/-- Slot `k` is about to take a task clock with the record `a` (R56, R57), and no earlier event may still fault it or a slot
ARMED with AFTER on it (R25; log 8). -/
structure Clocked (s : State) (k : Slot) (a : Task) : Prop where
  outOfReset : s.inReset = none
  record : s.task? k = some a
  inRun : a.state = .running ∨ a.state = .stopping
  unheld : a.held = false
  due : a.clockDue = true
  decided : ∀ j ∈ s.concerned k, s.undecided j = false

/-! ### What an engine's event leaves where its run goes on -/

/-- Slot `k` has taken its update, its record now `b`. -/
def State.tookUpdate (s : State) (k : Slot) (b : Task) : State :=
  { s with tasks := { slots := s.tasks.slots.set k (some b), updates := s.tasks.updates.set k none } }

/-- Slot `k` has taken its task clock, its record now `b`. -/
def State.tookClock (s : State) (k : Slot) (b : Task) : State :=
  { s with tasks := { s.tasks with slots := s.tasks.slots.set k (some b) } }

/-- A MARK pulse begun at `now` on the mark of `a`, where it names one (R43). -/
def MarkPulsed (s t : State) (a : Task) (now : Time) : Prop :=
  ∀ m, a.common.mark = some m →
    (t.lines.outputs.get m.line).level = otherLevel (s.lines.outputs.get m.line).idle ∧
      (t.lines.outputs.get m.line).markEnd = some (now + BitVec.ofNat 48 m.ticks)

/-- The run that goes on after a completion is a CONTINUOUS one, not STOPPING (R20). -/
def Task.goesOn (a : Task) : Prop := a.state = .running ∧ a.common.repeats = .continuous

/-- The command `c` takes a task clock at slot `k`, whose record is `a`, at `now` (R56, R59): one of the TIMEBASE, or the
clock line's ACTIVE edge in an update.  `left` is the state with the task clock taken and the record `b`. -/
inductive ClockFalls (s : State) (k : Slot) (a : Task) (turns : Turns) : Instr → Time → (Task → State) → Prop
  | timebase : Clocked s k a →
    ClockFalls s k a turns (.taskClock k turns) s.timebase.time fun b => s.tookClock k { b with clockDue := false }
  | line (v : View) : Works s k v a → v.clockEdge a.common = true →
    ClockFalls s k a turns (.taskUpdate k turns) v.time fun b => s.tookUpdate k b

/-! ### What the queue's turns leave -/

/-- The offers taken by the queue in turn (R138, R145). -/
def offered (q : ReportQueue) (epoch : Epoch) (time : Time) (offers : List Offer) : ReportQueue :=
  offers.foldl (fun q o => q.offer (.slot o.slot) epoch time o.report) q

/-- Slot `j` has a report among these offers, taken in turn, whose refusal faults its task: of class CRITICAL, no TASK_FAULT,
and refused by the queue as it then stands (R25, R145, R154). -/
def Loses (q : ReportQueue) (epoch : Epoch) (time : Time) (offers : List Offer) (j : Slot) : Prop :=
  ∃ before o after, offers = before ++ o :: after ∧ o.slot = j ∧ o.reportClass = .critical ∧
    (∀ reason value, o.report ≠ .taskFault reason value) ∧ 63 ≤ (offered q epoch time before).entries.length

/-- From `s` to `t` an event has ended: each slot that `loses` a report and is not FAULTED already comes to FAULTED with
reason REPORT_LOST, its counts kept, its alert released and its outputs idle (R24, R25, R44), and `faults` are their
TASK_FAULTs, one for each (R25, R26); nothing else is changed. -/
structure FaultsTaken (s t : State) (loses : Slot → Prop) (faults : List Offer) : Prop where
  once : (faults.map Offer.slot).Nodup
  offers : ∀ o, o ∈ faults ↔
    ∃ a, s.task? o.slot = some a ∧ a.state ≠ .faulted ∧ loses o.slot ∧
      o = offerOf o.slot a (.taskFault .reportLost a.engine.principal)
  faulted : ∀ j a, s.task? j = some a → a.state ≠ .faulted → loses j →
    t.task? j = some
      { a with
        state := .faulted, held := false, clockDue := false, faultReason := some .reportLost
        engine :=
          (match a.engine with
           | .deadline p r => .deadline p { r with expiryDue := false, alert := false }
           | e => e) }
  kept : ∀ j, (∀ a, s.task? j = some a → a.state = .faulted ∨ ¬loses j) → t.task? j = s.task? j
  idled : ∀ l j r a, (s.lines.outputs.get l).owner = .task j r → s.task? j = some a → a.state ≠ .faulted → loses j →
    t.lines.outputs.get l =
      { s.lines.outputs.get l with level := (s.lines.outputs.get l).idle, markEnd := none }
  levels : ∀ l, (∀ j r, (s.lines.outputs.get l).owner = .task j r →
      ∀ a, s.task? j = some a → a.state = .faulted ∨ ¬loses j) →
    t.lines.outputs.get l = s.lines.outputs.get l
  blocks : OtherBlocksKept s t
  link : t.link = s.link
  updates : t.tasks.updates = s.tasks.updates

/-- The quarter of the encoder's cycle at these phase levels, in the order A before B (R114). -/
def quarter : Cond → Cond → Fin 4
  | .inactive, .inactive => 0
  | .active, .inactive => 1
  | .active, .active => 2
  | .inactive, .active => 3

/-- The phase changes of one update, from the levels `a` and `b` to `a'` and `b'` (R113 to R117): the run state after them
and the report they make. -/
def PositionRun.afterPhases (p : PositionParams) (r : PositionRun) (a b a' b' : Cond) : PositionRun × List Report :=
  if a ≠ a' ∧ b ≠ b' then
    ({ r with phaseErrors := min 65535 (r.phaseErrors + 1) },
      [.phaseError r.position (min 65535 (r.phaseErrors + 1))])
  else if (a = a' ∧ b = b') ∨ (p.resolution = .x2 ∧ a = a') ∨
      (p.resolution = .x1 ∧ ¬(a = .inactive ∧ a' = .active)) then
    (r, [])
  else
    let up : Bool := decide (quarter a' b' = quarter a b + 1) != p.invert
    let position := if up then r.position + 1 else r.position - 1
    ({ r with position := position },
      if p.compare = some position then [.positionCompare position (if up then .up else .down)] else [])

/-- The index condition of one update, INDEX at `i` and the phases at `a` and `b` after it (R118, R119): the run state after
it and the report it makes. -/
def PositionRun.afterIndex (p : PositionParams) (r : PositionRun) (i a b : Cond) : PositionRun × List Report :=
  let condition : Bool :=
    decide (p.index ≠ none ∧ i = .active ∧ (p.indexPhase = none ∨ p.indexPhase = some (a, b)))
  if condition = true ∧ r.indexLevel = false then
    let position := if p.action = .load ∨ (p.action = .loadFirst ∧ r.indexSeen = false) then p.preset else r.position
    ({ r with position := position, indexSeen := true, indexLevel := true },
      if p.action = .none then [] else [.positionIndex r.position position])
  else ({ r with indexLevel := condition }, [])

/-- The report makes a mark event at a POSITION engine: a compare match or an index event (R117, R119). -/
def Report.marks : Report → Bool
  | .positionCompare _ _ => true
  | .positionIndex _ _ => true
  | _ => false

/-- The level of a line before an update after which it stands at `c` (R33). -/
def View.levelBefore (v : View) (l : InLine) (c : Cond) : Cond := if v.changeOf l = none then c else c.other

end Sys2Proof.Machine
end

