-- ==== Sys2Proof/Certificates/Slice0/Obligations.lean ====
section
/-! DEFINITION. The statements for the provers.  Where a statement speaks of a request, `Taking s q f rest` says that the
interpreter is free and out of reset and that the frame `f` of the row `q` stands first in the request queue, and
`State.answered` is the state with the response placed, or held by the waiting interpreter; everything the right-hand
side does not name is unchanged.  `s.readyFor slots` is `s` once the earlier events that may still fault a task of these
slots are over, and `s.settle` is `s` once all are (log 8); `s.clearFor slots` is `s` once no
earlier report of these slots waits, and `t.endEventsOf slots` is `t` once their open events are over (R26, R144, R183);
`t.takeTurns turns` is `t` after the queue's turns at the end of
an event, which the operand `turns` orders (log 7).  Where a statement names these, the field `events` or the field
`clockDue` (log 5), it speaks of the model's form of R23, R25, R138, R147 and R154. -/

open Sys2Proof Sys2Proof.Machine

/-! ### The step, the reset and the link's codes -/

/-- A step carries out the command at the front of the queue with the queue's rest; on an empty queue the part idles (the
model's choice, log 3); no step stops (no rule stops the part, 00_scope). -/
def Obligations.StepCarriesOutTheFrontCommand : Prop :=
  (∀ (c : Instr) (rest : List Instr) (s : State), s.pending = c :: rest → step s = exec c { s with pending := rest }) ∧
    (∀ s : State, s.pending = [] → step s = .next s) ∧
    ∀ s : State, ∃ t, step s = .next t

/-- State.reset is what a power-on reset leaves, whatever stood before (R29, R47, R61, R84, R155, R158, R191), and it is a sound
state of every block.  The straps LOW LOW, the cause POWER, the levels LOW and INACTIVE before the first sample instant, and
that POWER takes over a reset by the pin, are the model's choices (logs 10, 20, 9, 17). -/
def Obligations.PowerOnResetLeavesTheResetState : Prop :=
  (∀ s : State, ∃ t, exec (.hardReset .power) s = .next t ∧
    exec (.hardResetEnd { br1 := .low, br0 := .low }) t = .next { State.reset with pending := s.pending }) ∧
    State.reset.reports.Sound ∧ State.reset.link.Sound ∧ State.reset.StoreSound ∧ State.reset.OwnershipSound ∧
    State.reset.OutputsSound ∧ State.reset.TasksSound ∧ State.reset.FramesFit ∧ State.reset.ConditionersSound ∧
    State.reset.EventsSound

/-- The CRC over 31h to 39h is 29B1h, and the CRC over a frame's bytes and two more is 0 exactly when these two are the
CRC of those bytes, high byte first (R175). -/
def Obligations.CrcOverAGoodFrameIsZero : Prop :=
  crcOf [0x31, 0x32, 0x33, 0x34, 0x35, 0x36, 0x37, 0x38, 0x39] = 0x29B1 ∧
    ∀ (body : List Byte) (hi lo : Byte), crcOf (body ++ [hi, lo]) = 0 ↔ hi ++ lo = crcOf body

/-- The bytes of a whole frame, received one after another from HUNTING, admit exactly that frame: into the request queue,
or, where it is full, answered BUSY or dropped (R174, R176, R178, R181). -/
def Obligations.ReceivedFrameIsAdmittedWhole : Prop :=
  ∀ (s : State) (type tag : Byte) (payload : List Byte), s.inReset = none → s.link.receiver = .hunting →
    payload.length ≤ 120 →
    runCommands ((frameLayout type tag payload).map Instr.rxByte) s =
      some
        { s with
          link :=
            if s.link.requests.length < 4 then
              { s.link with requests := s.link.requests ++ [{ type := type, tag := tag, payload := payload }] }
            else
              s.link.noticed (responseTo { type := type, tag := tag, payload := payload } .busy []) }

/-- The task record of R197: a record the manual allows, laid out, is read back whole and passes the length check, and what is
read from any payload is a record the manual allows (R1, R5, R70, R86, R87, R93, R102, R110, R111, R126, R196, R197). -/
def Obligations.TaskRecordIsReadAsCoded : Prop :=
  ∀ (k : Slot) (c : Common) (kind : KindParams),
    (RecordAllowed k c kind →
      recordOf? k (recordLayout k c kind) = some (c, kind) ∧ defineLenOk (recordLayout k c kind) = true) ∧
    ∀ p : List Byte, recordOf? k p = some (c, kind) → RecordAllowed k c kind

/-- Segments are read as they are coded, four bytes each, and bits 7 to 4 of the control byte are not read (R198). -/
def Obligations.SegmentsAreReadAsCoded : Prop :=
  (∀ segments : List Segment, (∀ g ∈ segments, 1 ≤ g.duration ∧ g.duration ≤ 16777215) →
    segmentsOf? segments.length (segments.flatMap segmentLayout) = some segments) ∧
    ∀ control a b c : Byte, segmentOf? [control, a, b, c] = segmentOf? [control &&& 0x0F, a, b, c]

/-! ### Requests in general -/

/-- A request row takes nothing unless its request is the oldest and the interpreter free (for a command whose moment has
not come: the model's choice, log 2); taken, it is answered by one response, and a refused request changes nothing and
carries no data (R183, R184).  What it waits for is over first, refused or not: the open events for SET_TICK, and for a
request on a slot those that may still fault its task (R23, R25, R144; log 8). -/
def Obligations.RequestsAreTakenInTurnAndAnsweredOnce : Prop :=
  (∀ (c : Instr) (q : Request) (s : State), rowOf c = some q → (¬ ∃ f rest, Taking s q f rest) →
    exec c s = .next s) ∧
    ∀ (c : Instr) (q : Request) (s : State) (f : Frame) (rest : List Frame), rowOf c = some q →
      q ≠ .resetDeviceFull → Taking s q f rest →
      ∃ e status data, exec c s = .next (e.answered rest f status data) ∧
        e.link.responses = s.link.responses ∧
        (status ≠ .ok →
          data = [] ∧ (e = s ∨ e = s.settle ∧ (c = .setTick ∨ ∃ k, s.undecided k = true)))

/-- Every TYPE byte is the request of the code table, and the scope, mode or action byte of RESET_DEVICE, OPEN_SESSION,
SET_OUTPUT and STOP_TASK tells its row where the length is right (R21, R42, R160, R192, R194, R196; the last rows: log
1). -/
def Obligations.EachCodeIsItsRequest : Prop :=
  ∀ (type : Byte) (p : List Byte),
    (∀ x ∈ [((0x01 : Byte), Request.getIdentity), (0x02, .getLinkStatus), (0x09, .closeSession), (0x0A, .ackReports),
        (0x0B, .resendReports), (0x10, .setTick), (0x11, .getTime), (0x14, .configInput), (0x15, .configOutput),
        (0x17, .getLines), (0x1C, .loadProgram), (0x1D, .appendProgram), (0x1E, .eraseProgram), (0x1F, .getProgram),
        (0x20, .defineTask), (0x21, .deleteTask), (0x22, .armTask), (0x23, .disarmTask), (0x24, .startTask),
        (0x25, .startGroup), (0x27, .queryTask), (0x28, .readCount), (0x29, .setPosition)],
      requestOf type p = x.2 ↔ type = x.1) ∧
    (requestOf type p = .resetDeviceFull ↔ type = 0x03 ∧ p = [0x00]) ∧
    (requestOf type p = .resetDeviceTasks ↔ type = 0x03 ∧ p = [0x01]) ∧
    (requestOf type p = .resetDevice ↔ type = 0x03 ∧ p ≠ [0x00] ∧ p ≠ [0x01]) ∧
    (requestOf type p = .openSessionClean ↔ type = 0x08 ∧ ∃ w, p = [w, 0x00]) ∧
    (requestOf type p = .openSessionResume ↔ type = 0x08 ∧ ∃ w, p = [w, 0x01]) ∧
    (requestOf type p = .openSession ↔ type = 0x08 ∧ ∀ w, p ≠ [w, 0x00] ∧ p ≠ [w, 0x01]) ∧
    (requestOf type p = .setOutputIdle ↔ type = 0x16 ∧ ∃ l, p = [l, 0x00]) ∧
    (requestOf type p = .setOutputActive ↔ type = 0x16 ∧ ∃ l, p = [l, 0x01]) ∧
    (requestOf type p = .setOutputRelease ↔ type = 0x16 ∧ ∃ l, p = [l, 0x02]) ∧
    (requestOf type p = .setOutput ↔ type = 0x16 ∧ ∀ l, p ≠ [l, 0x00] ∧ p ≠ [l, 0x01] ∧ p ≠ [l, 0x02]) ∧
    (requestOf type p = .stopTaskGraceful ↔ type = 0x26 ∧ ∃ k, p = [k, 0x00]) ∧
    (requestOf type p = .stopTaskAbort ↔ type = 0x26 ∧ ∃ k, p = [k, 0x01]) ∧
    (requestOf type p = .stopTask ↔ type = 0x26 ∧ ∀ k, p ≠ [k, 0x00] ∧ p ≠ [k, 0x01]) ∧
    (requestOf type p = .unknown ↔
      type.toNat ∉ [0x01, 0x02, 0x03, 0x08, 0x09, 0x0A, 0x0B, 0x10, 0x11, 0x14, 0x15, 0x16, 0x17, 0x1C, 0x1D, 0x1E,
        0x1F, 0x20, 0x21, 0x22, 0x23, 0x24, 0x25, 0x26, 0x27, 0x28, 0x29])

/-- A TYPE that is no assigned code gives UNKNOWN_REQUEST; RESET_DEVICE, OPEN_SESSION, SET_OUTPUT and STOP_TASK of a wrong
length give BAD_LENGTH, and with another scope, mode or action BAD_PARAM (R21, R42, R160, R183, R192, R196). -/
def Obligations.UnassignedAndMalformedRequestsAreRefused : Prop :=
  ∀ (s : State) (f : Frame) (rest : List Frame),
    (Taking s .unknown f rest →
      exec .unknownRequest s = .next (s.answered rest f .unknownRequest []) ∧
        f.type.toNat ∉ [0x01, 0x02, 0x03, 0x08, 0x09, 0x0A, 0x0B, 0x10, 0x11, 0x14, 0x15, 0x16, 0x17, 0x1C, 0x1D, 0x1E,
          0x1F, 0x20, 0x21, 0x22, 0x23, 0x24, 0x25, 0x26, 0x27, 0x28, 0x29]) ∧
    (Taking s .resetDevice f rest →
      exec .resetDevice s = .next (s.answered rest f (if f.payload.length = 1 then .badParam else .badLength) [])) ∧
    (Taking s .openSession f rest →
      exec .openSession s = .next (s.answered rest f (if f.payload.length = 2 then .badParam else .badLength) [])) ∧
    (Taking s .setOutput f rest →
      exec .setOutput s = .next (s.answered rest f (if f.payload.length = 2 then .badParam else .badLength) [])) ∧
    (Taking s .stopTask f rest →
      exec .stopTask s = .next (s.answered rest f (if f.payload.length = 2 then .badParam else .badLength) []))

/-- The requests that read: their data byte by byte as the tables of R196 and R198 to R200 lay them out, their checks, and
nothing changed but the link, whose counters GET_LINK_STATUS clears after reading them where its flag is 01h (R27, R28,
R46, R54, R69, R188, R189, R190, R194, R196, R198, R199, R200).  An earlier event that may still fault a task they read of
is over first (log 8). -/
def Obligations.ReadRequestsAnswerAndChangeNothing : Prop :=
  ∀ (s : State) (f : Frame) (rest : List Frame),
    (Taking s .getIdentity f rest →
      exec .getIdentity s = .next
        (if f.payload = [] then
          s.answered rest f .ok
            [0x7D, 0x31, 0x12, 0x08, 0x01, 16, 12, 8, 8, 0x01, 0x00, 64, BitVec.ofNat 8 s.link.rate.val,
              causeLayout s.link.lastReset]
         else s.answered rest f .badLength [])) ∧
    (Taking s .getTime f rest →
      exec .getTime s = .next
        (if f.payload = [] then
          s.answered rest f .ok
            [s.timebase.time.extractLsb' 40 8, s.timebase.time.extractLsb' 32 8, s.timebase.time.extractLsb' 24 8,
              s.timebase.time.extractLsb' 16 8, s.timebase.time.extractLsb' 8 8, s.timebase.time.extractLsb' 0 8,
              s.timebase.epoch, tickLayout s.timebase.rate]
         else s.answered rest f .badLength [])) ∧
    (Taking s .getLines f rest →
      exec .getLines s = .next
        (match f.payload with
         | [b] =>
           let e := s.readyFor (indices 16)
           if b = 0xFF then e.answered rest f .ok (linesLayout e.lines none)
           else
             (match finOf? 12 b.toNat with
              | some l => e.answered rest f .ok (linesLayout e.lines (some l))
              | none => s.answered rest f .badParam [])
         | _ => s.answered rest f .badLength [])) ∧
    (Taking s .getProgram f rest →
      exec .getProgram s = .next
        (match f.payload with
         | [b, first] =>
           (match finOf? 8 b.toNat with
            | some p =>
              if 127 < first.toNat then s.answered rest f .badParam []
              else s.answered rest f .ok (programLayout (s.programs.get p) first.toNat)
            | none => s.answered rest f .badParam [])
         | _ => s.answered rest f .badLength [])) ∧
    (Taking s .queryTask f rest →
      exec .queryTask s = .next
        (match f.payload with
         | [b] =>
           (match finOf? 16 b.toNat with
            | some k => (s.readyFor [k]).answered rest f .ok (queryLayout k ((s.readyFor [k]).task? k))
            | none => s.answered rest f .badParam [])
         | _ => s.answered rest f .badLength [])) ∧
    (Taking s .readCount f rest →
      exec .readCount s = .next
        (match f.payload with
         | [b] =>
           (match finOf? 16 b.toNat with
            | some k =>
              (s.readyFor [k]).answered rest f .ok (countLayout k s.timebase.time ((s.readyFor [k]).task? k))
            | none => s.answered rest f .badParam [])
         | _ => s.answered rest f .badLength [])) ∧
    (Taking s .getLinkStatus f rest →
      exec .getLinkStatus s = .next
        (match f.payload with
         | [b] =>
           if b = 0x00 ∨ b = 0x01 then
             State.answered
               (if b = 0x01 then
                  { s with
                    link :=
                      { s.link with crcErrors := 0, oversizeFrames := 0, abandonedFrames := 0, droppedFrames := 0 } }
                else s)
               rest f .ok
               (two s.link.crcErrors ++ two s.link.oversizeFrames ++ two s.link.abandonedFrames ++
                 two s.link.droppedFrames ++
                 (match s.reports.session with
                  | some w => [0x01, BitVec.ofNat 8 w]
                  | none => [0x00, 0x00]) ++
                 [flagLayout s.link.opened, BitVec.ofNat 8 s.link.rate.val])
           else s.answered rest f .badParam []
         | _ => s.answered rest f .badLength []))

/-! ### The requests of resets and sessions -/

/-- RESET_DEVICE with scope FULL offers its OK and stops the interpreter; nothing else changes (R183, R192). -/
def Obligations.FullResetRequestStopsTheInterpreter : Prop :=
  ∀ (s : State) (f : Frame) (rest : List Frame), Taking s .resetDeviceFull f rest →
    exec .resetDeviceFull s = .next
      { s with
        link :=
          if s.link.responses.length < 4 then
            { s.link with
              requests := rest
              responses := s.link.responses ++ [{ responseTo f .ok [] with endsInFullReset := true }]
              interpreter := .stopped none }
          else
            { s.link with
              requests := rest
              interpreter := .stopped (some { responseTo f .ok [] with endsInFullReset := true }) } }

/-- RESET_DEVICE with scope TASKS frees every slot, releases its lines and programs, keeps all else, and offers
DEVICE_RESET with cause TASKS before its OK (R30, R48, R84, R156, R159, R193); the events acted on before it have their
reports offered first (R36), and updates not yet taken go with the slots (the model's inference, log 13). -/
def Obligations.TaskResetFreesEverySlot : Prop :=
  ∀ (s e : State) (f : Frame) (rest : List Frame), Taking s .resetDeviceTasks f rest → e = s.settle →
    exec .resetDeviceTasks s = .next
      (State.answered
        { e with
          tasks := { slots := Bank.fill 16 none, updates := Bank.fill 16 none }
          lines :=
            { e.lines with
              inputs := s.lines.inputs.map fun i => { i with claims := [] }
              outputs := e.lines.outputs.map fun o =>
                match o.owner with
                | .task _ _ => { o with owner := .none, level := o.idle, markEnd := none }
                | .host => o
                | .none => o }
          programs := s.programs.map fun p => { p with refCount := 0 }
          reports := e.reports.offer .device s.timebase.epoch s.timebase.time (.deviceReset .tasks) }
        rest f .ok [])

/-- OPEN_SESSION opens with a window of 1 to 32: in mode CLEAN on an emptied queue numbered from 0, in mode RESUME with every
entry PENDING again; the opened flag becomes yes (R160, R161, R162, R189).  CLOSE_SESSION makes every SENT entry PENDING
and closes; while CLOSED it is refused (R163). -/
def Obligations.SessionsOpenAndClose : Prop :=
  ∀ (s : State) (f : Frame) (rest : List Frame) (w : Byte),
    (Taking s .openSessionClean f rest → f.payload = [w, 0x00] →
      exec .openSessionClean s = .next
        (if 1 ≤ w.toNat ∧ w.toNat ≤ 32 then
          State.answered
            { s with
              reports := { entries := [], nextSeq := 0, lostCount := 0, session := some w.toNat }
              link := { s.link with opened := true } }
            rest f .ok [0, 0, 0, 0, 0]
         else s.answered rest f .badParam [])) ∧
    (Taking s .openSessionResume f rest → f.payload = [w, 0x01] →
      exec .openSessionResume s = .next
        (if 1 ≤ w.toNat ∧ w.toNat ≤ 32 then
          State.answered
            { s with
              reports :=
                { s.reports with
                  entries := s.reports.entries.map fun e => { e with delivery := .pending }
                  session := some w.toNat }
              link := { s.link with opened := true } }
            rest f .ok
            (two (s.reports.entries.head?.elim s.reports.nextSeq Entry.seq).toNat ++
              two s.reports.nextSeq.toNat ++ [BitVec.ofNat 8 s.reports.entries.length])
         else s.answered rest f .badParam [])) ∧
    (Taking s .closeSession f rest →
      exec .closeSession s = .next
        (if f.payload ≠ [] then s.answered rest f .badLength []
         else if s.reports.session = none then s.answered rest f .badState []
         else
          State.answered
            { s with
              reports :=
                { s.reports with
                  entries := s.reports.entries.map fun e => { e with delivery := .pending }
                  session := none } }
            rest f .ok []))

/-- ACK_REPORTS removes the entries from the oldest through s, and carries what lost_count held into a GAP at the tail
(R150, R152, R168, R169). -/
def Obligations.AcknowledgementRemovesThroughItsNumber : Prop :=
  ∀ (s : State) (f : Frame) (rest : List Frame) (a b : Byte) (o n : Seq), s.reports.Sound →
    Taking s .ackReports f rest →
    (f.payload.length ≠ 2 → exec .ackReports s = .next (s.answered rest f .badLength [])) ∧
    (f.payload = [a, b] → n = a ++ b → o = s.reports.entries.head?.elim s.reports.nextSeq Entry.seq →
    exec .ackReports s = .next
      (if s.reports.session = none then s.answered rest f .noSession []
       else if (n - o).toNat < s.reports.sentCount then
        (if s.reports.lostCount = 0 then
          State.answered
            { s with reports := { s.reports with entries := s.reports.entries.drop ((n - o).toNat + 1) } } rest f .ok
            (two (n + 1).toNat ++ two s.reports.nextSeq.toNat ++
              [BitVec.ofNat 8 (s.reports.entries.length - ((n - o).toNat + 1))])
         else
          State.answered
            { s with
              reports :=
                { s.reports with
                  entries := s.reports.entries.drop ((n - o).toNat + 1) ++
                    [{ seq := s.reports.nextSeq, delivery := .pending, report := .gap s.reports.lostCount true
                       source := .device, epoch := s.timebase.epoch, time := s.timebase.time }]
                  nextSeq := s.reports.nextSeq + 1
                  lostCount := 0 } }
            rest f .ok
            (two (n + 1).toNat ++ two (s.reports.nextSeq + 1).toNat ++
              [BitVec.ofNat 8 (s.reports.entries.length - (n - o).toNat)]))
       else s.answered rest f .badAck []))

/-- RESEND_REPORTS makes PENDING again every SENT entry from s on; older entries stay SENT and no entry leaves (R168,
R170). -/
def Obligations.ResendReturnsEntriesFromItsNumber : Prop :=
  ∀ (s : State) (f : Frame) (rest : List Frame) (a b : Byte) (o n : Seq),
    Taking s .resendReports f rest →
    (f.payload.length ≠ 2 → exec .resendReports s = .next (s.answered rest f .badLength [])) ∧
    (f.payload = [a, b] → n = a ++ b → o = s.reports.entries.head?.elim s.reports.nextSeq Entry.seq →
    exec .resendReports s = .next
      (if s.reports.session = none then s.answered rest f .noSession []
       else if (n - o).toNat < s.reports.sentCount then
        State.answered
          { s with
            reports :=
              { s.reports with
                entries := s.reports.entries.mapIdx fun i e =>
                  if (n - o).toNat ≤ i then { e with delivery := .pending } else e } }
          rest f .ok
          (two o.toNat ++ two s.reports.nextSeq.toNat ++ [BitVec.ofNat 8 s.reports.entries.length])
       else s.answered rest f .badAck []))

/-! ### The requests of the timebase and the lines -/

/-- SET_TICK: its three checks in order, and its effects: MARK pulses cut, the rate set, device time 0, the epoch one
higher (R52); the reports of the events before it enter the queue first (R144; log 8), and updates not yet taken are let go,
which no rule states (the model's inference, log 13). -/
def Obligations.SetTickRestartsDeviceTime : Prop :=
  ∀ (s e : State) (f : Frame) (rest : List Frame), Taking s .setTick f rest → e = s.settle →
    (f.payload.length ≠ 1 → exec .setTick s = .next (s.answered rest f .badLength [])) ∧
    (∀ b : Byte, f.payload = [b] → 3 < b.toNat → exec .setTick s = .next (s.answered rest f .badParam [])) ∧
    (∀ b : Byte, f.payload = [b] → b.toNat ≤ 3 →
      (∃ k t, e.task? k = some t ∧ (t.state = .armed ∨ t.state = .running ∨ t.state = .stopping)) →
      exec .setTick s = .next (e.answered rest f .badState [])) ∧
    (∀ b : Byte, f.payload = [b] → b.toNat ≤ 3 →
      (∀ k t, e.task? k = some t → t.state ≠ .armed ∧ t.state ≠ .running ∧ t.state ≠ .stopping) →
      (∃ x ∈ e.reports.entries, x.epoch = s.timebase.epoch + 1) →
      exec .setTick s = .next (e.answered rest f .badState [])) ∧
    (∀ (b : Byte) (rate : TickRate), f.payload = [b] → tickLayout rate = b →
      (∀ k t, e.task? k = some t → t.state ≠ .armed ∧ t.state ≠ .running ∧ t.state ≠ .stopping) →
      (∀ x ∈ e.reports.entries, x.epoch ≠ s.timebase.epoch + 1) →
      exec .setTick s = .next
        (State.answered
          { e with
            tasks := { e.tasks with updates := Bank.fill 16 none }
            lines :=
              { e.lines with
                outputs := e.lines.outputs.map fun o =>
                  if o.markEnd = none then o else { o with level := o.idle, markEnd := none } }
            timebase := { rate := rate, time := 0, epoch := s.timebase.epoch + 1 } }
          rest f .ok []))

/-- CONFIG_INPUT: its checks, then polarity and filter set, no candidate, and the conditioned level derived afresh from the
raw level (R38). -/
def Obligations.ConfigInputDerivesTheLevelAfresh : Prop :=
  ∀ (s : State) (f : Frame) (rest : List Frame), Taking s .configInput f rest →
    exec .configInput s = .next
      (match f.payload with
       | [a, b, c] =>
         (match finOf? 12 a.toNat with
          | none => s.answered rest f .badParam []
          | some l =>
            if 1 < b.toNat ∨ 63 < c.toNat then s.answered rest f .badParam []
            else if (s.lines.inputs.get l).claims ≠ [] then s.answered rest f .lineInUse []
            else
              State.answered
                { s with
                  lines :=
                    { s.lines with
                      inputs := s.lines.inputs.set l
                        { s.lines.inputs.get l with
                          polarity := if b = 0 then .activeHigh else .activeLow
                          filter := c.toNat
                          candidate := none
                          cond :=
                            if (s.lines.inputs.get l).raw = (if b = 0 then Level.high else Level.low) then .active
                            else .inactive } } }
                rest f .ok [])
       | _ => s.answered rest f .badLength [])

/-- CONFIG_OUTPUT: its checks, then the idle level set and the line driven to it (R41). -/
def Obligations.ConfigOutputDrivesTheIdleLevel : Prop :=
  ∀ (s : State) (f : Frame) (rest : List Frame), Taking s .configOutput f rest →
    exec .configOutput s = .next
      (match f.payload with
       | [a, b] =>
         (match finOf? 8 a.toNat with
          | none => s.answered rest f .badParam []
          | some l =>
            if 1 < b.toNat then s.answered rest f .badParam []
            else if (s.lines.outputs.get l).owner ≠ .none then s.answered rest f .lineInUse []
            else
              State.answered
                { s with
                  lines :=
                    { s.lines with
                      outputs := s.lines.outputs.set l
                        { s.lines.outputs.get l with
                          idle := if b = 0 then .low else .high
                          level := if b = 0 then .low else .high } } }
                rest f .ok [])
       | _ => s.answered rest f .badLength [])

/-- SET_OUTPUT on a line no task owns: ACTIVE and IDLE make HOST its owner and drive it, RELEASE gives it up at its idle
level; a task's line is refused (R40, R42). -/
def Obligations.SetOutputTakesDrivesAndReleases : Prop :=
  ∀ (s : State) (f : Frame) (rest : List Frame) (a : Byte),
    (∀ c : Instr, (c = .setOutputActive ∧ Taking s .setOutputActive f rest ∧ f.payload = [a, 0x01]) ∨
        (c = .setOutputIdle ∧ Taking s .setOutputIdle f rest ∧ f.payload = [a, 0x00]) ∨
        (c = .setOutputRelease ∧ Taking s .setOutputRelease f rest ∧ f.payload = [a, 0x02]) →
      (7 < a.toNat → exec c s = .next (s.answered rest f .badParam [])) ∧
      (∀ (l : OutLine) (k : Slot) (r : OutRole), a.toNat = l.val → (s.lines.outputs.get l).owner = .task k r →
        exec c s = .next (s.answered rest f .outputOwned [])) ∧
      (∀ l : OutLine, a.toNat = l.val → (∀ k r, (s.lines.outputs.get l).owner ≠ .task k r) →
        exec c s = .next
          (State.answered
            { s with
              lines :=
                { s.lines with
                  outputs := s.lines.outputs.set l
                    (if c = .setOutputActive then
                      { s.lines.outputs.get l with
                        owner := .host, level := otherLevel (s.lines.outputs.get l).idle }
                     else if c = .setOutputIdle then
                      { s.lines.outputs.get l with owner := .host, level := (s.lines.outputs.get l).idle }
                     else
                      { s.lines.outputs.get l with
                        owner := .none, level := (s.lines.outputs.get l).idle, markEnd := none }) } }
            rest f .ok [])))

/-! ### The segment store -/

/-- LOAD_PROGRAM replaces a program's content, APPEND_PROGRAM adds to an OPEN one and ERASE_PROGRAM empties one whose
reference count is 0, each after its checks in order (R62, R65, R66, R67, R68, R196). -/
def Obligations.ProgramsAreLoadedExtendedAndErased : Prop :=
  ∀ (s : State) (f : Frame) (rest : List Frame),
    (Taking s .eraseProgram f rest →
      exec .eraseProgram s = .next
        (match f.payload with
         | [b] =>
           (match finOf? 8 b.toNat with
            | none => s.answered rest f .badParam []
            | some p =>
              if 0 < (s.programs.get p).refCount then s.answered rest f .programInUse []
              else
                State.answered
                  { s with
                    programs := s.programs.set p { s.programs.get p with state := .empty, segments := [] } }
                  rest f .ok [])
         | _ => s.answered rest f .badLength [])) ∧
    (∀ c : Instr, (c = .loadProgram ∧ Taking s .loadProgram f rest) ∨
        (c = .appendProgram ∧ Taking s .appendProgram f rest) →
      (f.payload.length < 3 → exec c s = .next (s.answered rest f .badLength [])) ∧
      ∀ (a final n : Byte) (body : List Byte), f.payload = a :: final :: n :: body →
        (body.length ≠ 4 * n.toNat → exec c s = .next (s.answered rest f .badLength [])) ∧
        (body.length = 4 * n.toNat →
          (7 < a.toNat ∨ n.toNat = 0 ∨ 28 < n.toNat ∨ segmentsOf? n.toNat body = none) →
          exec c s = .next (s.answered rest f .badParam []))) ∧
    ∀ (a final n : Byte) (body : List Byte) (p : Prog) (segments : List Segment),
      f.payload = a :: final :: n :: body → body.length = 4 * n.toNat → a.toNat = p.val → 1 ≤ n.toNat → n.toNat ≤ 28 →
      segmentsOf? n.toNat body = some segments →
      (Taking s .loadProgram f rest →
        exec .loadProgram s = .next
          (if 0 < (s.programs.get p).refCount then s.answered rest f .programInUse []
           else if (256 - usedCells s.programs) + (s.programs.get p).segments.length < n.toNat then
             s.answered rest f .noSpace []
           else
            State.answered
              { s with
                programs := s.programs.set p
                  { s.programs.get p with
                    state := if final = 0 then .loading else .sealed
                    segments := segments } }
              rest f .ok [])) ∧
      (Taking s .appendProgram f rest →
        exec .appendProgram s = .next
          (if (s.programs.get p).state ≠ .loading then s.answered rest f .badState []
           else if 128 < (s.programs.get p).segments.length + n.toNat then s.answered rest f .badParam []
           else if 256 - usedCells s.programs < n.toNat then s.answered rest f .noSpace []
           else
            State.answered
              { s with
                programs := s.programs.set p
                  { s.programs.get p with
                    state := if final = 0 then .loading else .sealed
                    segments := (s.programs.get p).segments ++ segments } }
              rest f .ok []))

/-! ### The requests on slots -/

/-- A DEFINE_TASK that passes every check takes effect whole: the record, one claim per role, the outputs' owners and the
program's reference count (R4, R6, R35, R40, R64). -/
def Obligations.DefineTaskTakesEffectWhole : Prop :=
  ∀ (s : State) (f : Frame) (rest : List Frame) (k : Slot) (c : Common) (kind : KindParams),
    Taking s .defineTask f rest → defineLenOk f.payload = true → (byteAt f.payload 0).toNat = k.val → s.task? k = none →
    recordOf? k f.payload = some (c, kind) →
    (∀ p, kind.program? = some p → (s.programs.get p).state = .sealed ∧
      (c.trigger = none → ∀ g ∈ (s.programs.get p).segments, g.wait = false)) →
    (∀ l r, (l, r) ∈ outputsOf c kind → (s.lines.outputs.get l).owner = .none) →
    (∀ l, (s.lines.inputs.get l).claims.length + ((claimsOf c kind).filter fun x => x.1 == l).length ≤ 4) →
    ∃ t, exec .defineTask s = .next t ∧
      t.task? k = some
        { state := .idle, held := false, common := c, engine := kind.defined s.segments, runCount := 0
          overrunCount := 0, faultReason := none, startTime := 0, tickPhase := 0, clockDue := false } ∧
      (∀ j, j ≠ k → t.task? j = s.task? j) ∧ t.tasks.updates = s.tasks.updates ∧
      (∀ l, (t.lines.inputs.get l).claims.Perm
        ((s.lines.inputs.get l).claims ++ ((claimsOf c kind).filter fun x => x.1 == l).map fun x => (k, x.2))) ∧
      (∀ l, t.lines.inputs.get l =
        { s.lines.inputs.get l with claims := (t.lines.inputs.get l).claims }) ∧
      (∀ l r, (l, r) ∈ outputsOf c kind →
        t.lines.outputs.get l = { s.lines.outputs.get l with owner := .task k r }) ∧
      (∀ l, (∀ r, (l, r) ∉ outputsOf c kind) → t.lines.outputs.get l = s.lines.outputs.get l) ∧
      (∀ p, t.programs.get p =
        { s.programs.get p with
          refCount := (s.programs.get p).refCount + (if kind.program? = some p then 1 else 0) }) ∧
      t.lines.sampled = s.lines.sampled ∧ t.timebase = s.timebase ∧ t.reports = s.reports ∧ t.inReset = s.inReset ∧
      t.pending = s.pending ∧ t.link = s.link.answered rest (responseTo f .ok [])

/-- A DEFINE_TASK that fails a check changes nothing and is answered by the status of the first failing check, in the order
of R4 (R4, R5, R70, R183, R196). -/
def Obligations.DefineTaskRefusesInOrder : Prop :=
  ∀ (s : State) (f : Frame) (rest : List Frame), Taking s .defineTask f rest →
    (defineLenOk f.payload = false → exec .defineTask s = .next (s.answered rest f .badLength [])) ∧
    (defineLenOk f.payload = true →
      (15 < (byteAt f.payload 0).toNat → exec .defineTask s = .next (s.answered rest f .badParam [])) ∧
      ∀ k : Slot, (byteAt f.payload 0).toNat = k.val →
        (s.task? k ≠ none → exec .defineTask s = .next (s.answered rest f .badState [])) ∧
        (s.task? k = none →
          (recordOf? k f.payload = none → exec .defineTask s = .next (s.answered rest f .badParam [])) ∧
          ∀ (c : Common) (kind : KindParams), recordOf? k f.payload = some (c, kind) →
            (∀ p, kind.program? = some p → c.trigger = none → (∃ g ∈ (s.programs.get p).segments, g.wait = true) →
              exec .defineTask s = .next (s.answered rest f .badParam [])) ∧
            ((∀ p, kind.program? = some p → c.trigger = none → ∀ g ∈ (s.programs.get p).segments, g.wait = false) →
              (∀ p, kind.program? = some p → (s.programs.get p).state ≠ .sealed →
                exec .defineTask s = .next (s.answered rest f .badState [])) ∧
              ((∀ p, kind.program? = some p → (s.programs.get p).state = .sealed) →
                ((∃ l r, (l, r) ∈ outputsOf c kind ∧ (s.lines.outputs.get l).owner ≠ .none) →
                  exec .defineTask s = .next (s.answered rest f .outputOwned [])) ∧
                ((∀ l r, (l, r) ∈ outputsOf c kind → (s.lines.outputs.get l).owner = .none) →
                  (∃ l, 4 < (s.lines.inputs.get l).claims.length +
                    ((claimsOf c kind).filter fun x => x.1 == l).length) →
                  exec .defineTask s = .next (s.answered rest f .claimsFull []))))))

/-- DELETE_TASK in IDLE, DONE and FAULTED frees the slot: its claims, its outputs at their idle levels with any pulse cut,
its program's count; elsewhere it is refused (R3, R7, R40, R44, R64).  The slot's untaken update goes with its claims
(the model's inference, log 13); an event that may still fault the task is over first (R23, R25; log 8). -/
def Obligations.DeleteTaskFreesTheSlot : Prop :=
  ∀ (s : State) (f : Frame) (rest : List Frame), Taking s .deleteTask f rest →
    exec .deleteTask s = .next
      (match f.payload with
       | [b] =>
         (match finOf? 16 b.toNat with
          | none => s.answered rest f .badParam []
          | some k =>
            let e := s.readyFor [k]
            (match e.task? k with
             | none => e.answered rest f .badState []
             | some a =>
               if a.state = .idle ∨ a.state = .done ∨ a.state = .faulted then
                 State.answered
                   { e with
                     tasks := { slots := e.tasks.slots.set k none, updates := s.tasks.updates.set k none }
                     lines :=
                       { e.lines with
                         inputs := s.lines.inputs.map fun i => { i with claims := i.claims.filter fun c => c.1 ≠ k }
                         outputs := e.lines.outputs.map fun o =>
                           if o.owner = .task k .wave ∨ o.owner = .task k .mark ∨ o.owner = .task k .alert then
                             { o with owner := .none, level := o.idle, markEnd := none }
                           else o }
                     programs :=
                       (match a.engine with
                        | .pulseTrain p _ =>
                          s.programs.set p.program
                            { s.programs.get p.program with refCount := (s.programs.get p.program).refCount - 1 }
                        | _ => s.programs) }
                   rest f .ok []
               else e.answered rest f .badState []))
       | _ => s.answered rest f .badLength [])

/-- ARM_TASK takes IDLE, DONE and FAULTED to ARMED with the counts and the fault cleared, the alert released and a position
at its preset; DISARM_TASK takes ARMED to IDLE with the alert released and the task's pulse cut; each is refused
elsewhere (R3, R8, R9, R44, R112, R127, R133).  An event that may still fault the task is over first (R23, R25; log 8). -/
def Obligations.ArmAndDisarmMoveTheSlot : Prop :=
  ∀ (s : State) (f : Frame) (rest : List Frame),
    (Taking s .armTask f rest →
      exec .armTask s = .next
        (match f.payload with
         | [b] =>
           (match finOf? 16 b.toNat with
            | none => s.answered rest f .badParam []
            | some k =>
              let e := s.readyFor [k]
              (match e.task? k with
               | none => e.answered rest f .badState []
               | some a =>
                 if a.state = .idle ∨ a.state = .done ∨ a.state = .faulted then
                   State.answered
                     { e with
                       tasks :=
                         { e.tasks with
                           slots := e.tasks.slots.set k
                             (some
                               { a with
                                 state := .armed, held := false, runCount := 0, overrunCount := 0, faultReason := none
                                 clockDue := false
                                 engine :=
                                   (match a.engine with
                                    | .position p r =>
                                      .position p { r with position := p.preset, phaseErrors := 0, indexSeen := false }
                                    | .deadline p r => .deadline p { r with expiryDue := false, alert := false }
                                    | x => x) }) }
                       lines :=
                         { e.lines with
                           outputs :=
                             (match a.engine with
                              | .deadline p _ =>
                                (match p.alert with
                                 | some l =>
                                   e.lines.outputs.set l
                                     { e.lines.outputs.get l with level := (e.lines.outputs.get l).idle }
                                 | none => e.lines.outputs)
                              | _ => e.lines.outputs) } }
                     rest f .ok []
                 else e.answered rest f .badState []))
         | _ => s.answered rest f .badLength [])) ∧
    (Taking s .disarmTask f rest →
      exec .disarmTask s = .next
        (match f.payload with
         | [b] =>
           (match finOf? 16 b.toNat with
            | none => s.answered rest f .badParam []
            | some k =>
              let e := s.readyFor [k]
              (match e.task? k with
               | none => e.answered rest f .badState []
               | some a =>
                 if a.state = .armed then
                   State.answered
                     { e with
                       tasks :=
                         { e.tasks with
                           slots := e.tasks.slots.set k
                             (some
                               { a with
                                 state := .idle, held := false, clockDue := false
                                 engine :=
                                   (match a.engine with
                                    | .deadline p r => .deadline p { r with expiryDue := false, alert := false }
                                    | x => x) }) }
                       lines :=
                         { e.lines with
                           outputs := e.lines.outputs.map fun o =>
                             if o.owner = .task k .wave ∨ o.owner = .task k .mark ∨ o.owner = .task k .alert then
                               { o with level := o.idle, markEnd := none }
                             else o } }
                     rest f .ok []
                 else e.answered rest f .badState []))
         | _ => s.answered rest f .badLength []))

/-- START_TASK starts an ARMED task, whatever its start condition, with cause HOST, keeps its counts, and touches no other
slot; elsewhere it is refused (R3, R10, R12).  Its TASK_STARTED enters the queue in its own event (R138, R144, R183), behind
the task's earlier reports (R26); an event that may still fault the task is over first (R23, R25; log 8). -/
def Obligations.StartTaskStartsAnArmedTask : Prop :=
  ∀ (s : State) (f : Frame) (rest : List Frame), Taking s .startTask f rest →
    (f.payload.length ≠ 1 → exec .startTask s = .next (s.answered rest f .badLength [])) ∧
    ∀ b : Byte, f.payload = [b] →
      (15 < b.toNat → exec .startTask s = .next (s.answered rest f .badParam [])) ∧
      ∀ (k : Slot) (e d : State), b.toNat = k.val → e = s.readyFor [k] → d = e.clearFor [k] →
        ((∀ a, e.task? k = some a → a.state ≠ .armed) →
          exec .startTask s = .next (e.answered rest f .badState [])) ∧
        ∀ a, e.task? k = some a → a.state = .armed →
          ∃ t, exec .startTask s = .next ((t.endEventsOf [k]).answered rest f .ok []) ∧
            Started d t k s.levelNow s.timebase.time id ∧
            (∀ j, j ≠ k → t.task? j = d.task? j) ∧ t.tasks.updates = s.tasks.updates ∧ OtherBlocksKept s t ∧
            t.reports = d.reports ∧ t.events = (d.offering s.timebase.time [] (startOffers k a .host)).events ∧
            (∀ l, (∀ p r, a.engine = .pulseTrain p r → l ≠ p.wave) → t.lines.outputs.get l = d.lines.outputs.get l) ∧
            t.link = s.link

/-- START_GROUP starts every slot its mask names, all of them ARMED, in one event at one time, with their TASK_STARTED
reports in any order; a mask of none or a slot not ARMED starts nothing; no output but the WAVE lines of the named slots
changes (R11, R12, R147).  The TASK_STARTEDs enter the queue in the request's event (R138, R144, R183), behind the tasks'
earlier reports (R26); an event that may still fault a named task is over first (R23, R25; log 8). -/
def Obligations.StartGroupStartsAllOrNone : Prop :=
  ∀ (s : State) (f : Frame) (rest : List Frame) (turns : Turns), Taking s .startGroup f rest →
    (f.payload.length ≠ 2 → exec (.startGroup turns) s = .next (s.answered rest f .badLength [])) ∧
    ∀ (a b : Byte) (named : List Slot) (e d : State), f.payload = [a, b] →
      named = ((indices 16).filter fun k => (a ++ b : BitVec 16).getLsbD k.val) → e = s.readyFor named →
      d = e.clearFor named →
      ((a ++ b : BitVec 16) = 0 → exec (.startGroup turns) s = .next (s.answered rest f .badParam [])) ∧
      ((∃ k ∈ named, ∀ r, e.task? k = some r → r.state ≠ .armed) →
        exec (.startGroup turns) s = .next (e.answered rest f .badState [])) ∧
      ((a ++ b : BitVec 16) ≠ 0 → d.OwnershipSound → (∀ k ∈ named, ∃ r, e.task? k = some r ∧ r.state = .armed) →
        ∃ t, exec (.startGroup turns) s = .next (((t.takeTurns turns).endEventsOf named).answered rest f .ok []) ∧
          (∀ k ∈ named, Started d t k s.levelNow s.timebase.time id) ∧
          (∀ k, k ∉ named → t.task? k = d.task? k) ∧
          (∀ l, (∀ k ∈ named, ∀ r p x, d.task? k = some r → r.engine = .pulseTrain p x → l ≠ p.wave) →
            t.lines.outputs.get l = d.lines.outputs.get l) ∧
          t.tasks.updates = s.tasks.updates ∧ OtherBlocksKept s t ∧ t.reports = d.reports ∧
          t.events =
            (d.offering s.timebase.time []
              (named.flatMap fun k => (d.task? k).elim [] fun r => startOffers k r .group)).events ∧
          t.link = s.link)

/-- STOP_TASK in RUNNING and STOPPING: ABORT ends the run at once, without a completion, with ending ABORTED; GRACEFUL puts
a run that can finish in STOPPING, leaves one already STOPPING, and ends any other at once with ending STOPPED;
elsewhere it is refused (R3, R21, R22).  The TASK_DONE enters the queue in the request's event (R138, R144, R183), behind the
task's earlier reports (R26); an event that may still fault the task is over first (R23, R25; log 8). -/
def Obligations.StopsEndOrFinishTheRun : Prop :=
  ∀ (s : State) (f : Frame) (rest : List Frame) (c : Instr) (b : Byte) (ending : Ending),
    (c = .stopTaskAbort ∧ Taking s .stopTaskAbort f rest ∧ f.payload = [b, 0x01] ∧ ending = .aborted) ∨
      (c = .stopTaskGraceful ∧ Taking s .stopTaskGraceful f rest ∧ f.payload = [b, 0x00] ∧ ending = .stopped) →
    (15 < b.toNat → exec c s = .next (s.answered rest f .badParam [])) ∧
    ∀ (k : Slot) (e : State), b.toNat = k.val → e = s.readyFor [k] →
      ((∀ a, e.task? k = some a → a.state ≠ .running ∧ a.state ≠ .stopping) →
        exec c s = .next (e.answered rest f .badState [])) ∧
      ∀ a, e.task? k = some a →
        (c = .stopTaskGraceful → a.state = .stopping → exec c s = .next (e.answered rest f .ok [])) ∧
        (c = .stopTaskGraceful → a.state = .running → a.engine.finishes = true →
          exec c s = .next
            (State.answered
              { e with tasks := { e.tasks with slots := e.tasks.slots.set k (some { a with state := .stopping }) } }
              rest f .ok [])) ∧
        ((a.state = .running ∧ (c = .stopTaskAbort ∨ a.engine.finishes = false)) ∨
            (a.state = .stopping ∧ c = .stopTaskAbort) →
          ∀ d t, d = e.clearFor [k] → t =
            (State.offering
              { d with
                tasks :=
                  { d.tasks with
                    slots := d.tasks.slots.set k
                      (some
                        { a with
                          state := .done, held := false, clockDue := false
                          engine :=
                            (match a.engine with
                             | .deadline p r => .deadline p { r with expiryDue := false }
                             | x => x) }) }
                lines :=
                  { d.lines with
                    outputs :=
                      (match a.engine with
                       | .pulseTrain p _ =>
                         d.lines.outputs.set p.wave
                           { d.lines.outputs.get p.wave with level := (d.lines.outputs.get p.wave).idle }
                       | _ => d.lines.outputs) } }
              s.timebase.time [offerOf k a (.taskDone ending a.engine.principal a.runCount a.overrunCount)] []) →
          exec c s = .next ((t.endEventsOf [k]).answered rest f .ok []))

/-- SET_POSITION sets the position of a POSITION task in any state and nothing else; its checks in order (R122).  An event that
may still fault the task is over first (R23, R25; log 8). -/
def Obligations.SetPositionSetsThePositionAlone : Prop :=
  ∀ (s : State) (f : Frame) (rest : List Frame), Taking s .setPosition f rest →
    exec .setPosition s = .next
      (match f.payload with
       | [b, v3, v2, v1, v0] =>
         (match finOf? 16 b.toNat with
          | none => s.answered rest f .badParam []
          | some k =>
            let e := s.readyFor [k]
            (match e.task? k with
             | none => e.answered rest f .badState []
             | some a =>
               (match a.engine with
                | .position p r =>
                  State.answered
                    { e with
                      tasks :=
                        { e.tasks with
                          slots := e.tasks.slots.set k
                            (some { a with engine := .position p { r with position := v3 ++ v2 ++ v1 ++ v0 } }) } }
                    rest f .ok []
                | _ => e.answered rest f .badParam [])))
       | _ => s.answered rest f .badLength [])

/-! ### The link -/

/-- The receiver's table (R176): SYNC, LEN, the body and the judgement of the CRC, with OVERSIZE (R177), CRC_ERROR (R178),
notices (R180) and admission (R181); the abandoned frame (R179); and both ignored during a hard reset (R191; that the
silence of a frame then has no event is the model's choice, log 2).  The silence timer is outside the model (log 6). -/
def Obligations.ReceiverTakesEachByteByItsPhase : Prop :=
  (∀ (s : State) (b : Byte), s.inReset = none →
    exec (.rxByte b) s = .next
      { s with
        link :=
          (match s.link.receiver with
           | .hunting => if b = 0x5A then { s.link with receiver := .length } else s.link
           | .length =>
             if b.toNat ≤ 120 then { s.link with receiver := .body b.toNat [] (crcOf [b]) }
             else
               Link.noticed
                 { s.link with receiver := .hunting, oversizeFrames := min 65535 (s.link.oversizeFrames + 1) }
                 { type := 0xC0, tag := 0x00, payload := [0x02], endsInFullReset := false }
           | .body len bytes crc =>
             if bytes.length < len + 2 then { s.link with receiver := .body len (bytes ++ [b]) (crcByte crc b) }
             else if bytes.length = len + 2 then { s.link with receiver := .body len (bytes ++ [b]) crc }
             else if crc ≠ bytes.getD (len + 2) 0 ++ b then
               Link.noticed
                 { s.link with receiver := .hunting, crcErrors := min 65535 (s.link.crcErrors + 1) }
                 { type := 0xC0, tag := 0x00, payload := [0x01], endsInFullReset := false }
             else if s.link.requests.length < 4 then
               { s.link with
                 receiver := .hunting
                 requests := s.link.requests ++
                   [{ type := bytes.getD 0 0, tag := bytes.getD 1 0, payload := (bytes.drop 2).take len }] }
             else
               Link.noticed { s.link with receiver := .hunting }
                 (responseTo { type := bytes.getD 0 0, tag := bytes.getD 1 0, payload := [] } .busy [])) }) ∧
    (∀ s : State, s.inReset = none →
      exec .frameAbandoned s = .next
        { s with
          link :=
            if s.link.receiver = .hunting then s.link
            else { s.link with receiver := .hunting, abandonedFrames := min 65535 (s.link.abandonedFrames + 1) } }) ∧
    ∀ (s : State) (b : Byte), s.inReset ≠ none → exec (.rxByte b) s = .next s ∧ exec .frameAbandoned s = .next s

/-- A response the interpreter holds takes a free place of the response queue: a waiting interpreter becomes free, a
stopped one stays stopped (R183, R185).  That the command may come later than the place is free is log 11; that with no
place, nothing held or in a hard reset it does nothing is the model's choice, log 2. -/
def Obligations.HeldResponseTakesAFreePlace : Prop :=
  ∀ s : State,
    (∀ r, s.inReset = none → s.link.responses.length < 4 → s.link.interpreter = .waiting r →
      exec .responsePlaced s = .next
        { s with link := { s.link with responses := s.link.responses ++ [r], interpreter := .free } }) ∧
    (∀ r, s.inReset = none → s.link.responses.length < 4 → s.link.interpreter = .stopped (some r) →
      exec .responsePlaced s = .next
        { s with link := { s.link with responses := s.link.responses ++ [r], interpreter := .stopped none } }) ∧
    (s.inReset ≠ none ∨ 4 ≤ s.link.responses.length ∨ s.link.interpreter.held = none →
      exec .responsePlaced s = .next s)

/-- The transmit arbiter, at a frame boundary and from idle: the head of the response queue, otherwise the oldest PENDING
entry while the session is OPEN with credit left, which becomes SENT and is copied byte by byte, a GAP no longer open,
otherwise idle (R165, R166, R186, R187, R195, R201).  No report begins while the interpreter holds a response (R164; log
11).  With a frame in transmission or in a hard reset there is no choice, without a frame no boundary, and at the end of the
OK of RESET_DEVICE FULL the full reset comes instead (the model's choices, logs 2 and 12). -/
def Obligations.ArbiterSendsResponsesThenReports : Prop :=
  (∀ (c : Instr) (s : State),
    (c = .idleArbiterChoice ∧ s.inReset = none ∧ s.link.transmission = none) ∨
      (c = .frameBoundary ∧ ∃ x, s.link.transmission = some x ∧ x.endsInFullReset = false) →
    (∀ r rest, s.link.responses = r :: rest →
      exec c s = .next
        { s with
          link :=
            { s.link with
              responses := rest
              transmission :=
                some { bytes := frameLayout r.type r.tag r.payload, endsInFullReset := r.endsInFullReset } } }) ∧
    (∀ w sent e pending, s.link.responses = [] → s.link.interpreter.held = none → s.reports.session = some w →
      s.reports.sentCount < w → s.reports.entries = sent ++ e :: pending → (∀ x ∈ sent, x.delivery = .sent) →
      e.delivery = .pending →
      ∀ e' : Entry, e' =
          { e with
            delivery := .sent
            report := (match e.report with
              | .gap count _ => .gap count false
              | r => r) } →
        exec c s = .next
          { s with
            reports := { s.reports with entries := sent ++ e' :: pending }
            link :=
              { s.link with
                transmission := some { bytes := frameLayout 0x80 0x00 (entryLayout e'), endsInFullReset := false } } }) ∧
    (s.link.responses = [] →
      (s.link.interpreter.held ≠ none ∨ s.reports.session = none ∨
        (∃ w, s.reports.session = some w ∧ w ≤ s.reports.sentCount) ∨ ∀ x ∈ s.reports.entries, x.delivery = .sent) →
      exec c s = .next { s with link := { s.link with transmission := none } })) ∧
    ∀ s : State,
      (s.inReset ≠ none ∨ s.link.transmission ≠ none → exec .idleArbiterChoice s = .next s) ∧
      (s.link.transmission = none ∨ (∃ x, s.link.transmission = some x ∧ x.endsInFullReset = true) →
        exec .frameBoundary s = .next s)

/-! ### Resets -/

/-- A hard reset begins: outputs LOW with no pulse, the frames in transmission and reception cut, both link queues and a
held response lost (R44, R47, R191); updates and offers not yet taken are let go (the model's inference, log 13).  RSTN
during a hard reset begins none anew (the model's choice, log 17). -/
def Obligations.HardResetCutsTheLinkAndDrivesOutputsLow : Prop :=
  ∀ (s : State) (cause : HardCause),
    exec (.hardReset cause) s = .next
      (if s.inReset ≠ none ∧ cause = .pin then s
       else
        { s with
          inReset := some cause
          tasks := { s.tasks with updates := Bank.fill 16 none }
          events := []
          lines :=
            { s.lines with outputs := s.lines.outputs.map fun o => { o with level := .low, markEnd := none } }
          link :=
            { s.link with
              receiver := .hunting, requests := [], responses := [], interpreter := .free, transmission := none } })

/-- The end of a hard reset, and the full reset at the end of the transmission of its OK, set every block to its reset
values and place DEVICE_RESET with the cause at seq 0; the rate is the straps' (R29, R47, R49, R61, R84, R155, R158,
R173, R191, R192); no update and no offer is left (the model's inference, log 13).  At no other moment does either command
do anything (the model's choice, log 2). -/
def Obligations.ResetsSetEveryBlock : Prop :=
  ∀ (s : State) (c : Instr) (straps : Straps) (cause : ResetCause),
    ((c = .hardResetEnd straps ∧
        ((s.inReset = some .power ∧ cause = .power) ∨ (s.inReset = some .pin ∧ cause = .pin))) ∨
      (c = .fullReset straps ∧ cause = .full ∧ ∃ x, s.link.transmission = some x ∧ x.endsInFullReset = true) →
      ∃ t, exec c s = .next t ∧ t.pending = s.pending ∧ t.inReset = none ∧ t.events = [] ∧
        (∀ k, t.task? k = none ∧ t.tasks.updates.get k = none) ∧
        (∀ l, (t.lines.inputs.get l).polarity = .activeHigh ∧ (t.lines.inputs.get l).filter = 0 ∧
          (t.lines.inputs.get l).candidate = none ∧ (t.lines.inputs.get l).claims = []) ∧
        (∀ l, t.lines.outputs.get l = { idle := .low, owner := .none, level := .low, markEnd := none }) ∧
        t.lines.sampled = false ∧ t.timebase = { rate := .micro, time := 0, epoch := 0 } ∧
        (∀ p, t.programs.get p = { state := .empty, segments := [], refCount := 0 }) ∧
        t.reports =
          { entries :=
              [{ seq := 0, delivery := .pending, report := .deviceReset cause, source := .device, epoch := 0, time := 0 }]
            nextSeq := 1, lostCount := 0, session := none } ∧
        t.link =
          { receiver := .hunting, requests := [], responses := [], interpreter := .free, transmission := none
            crcErrors := 0, oversizeFrames := 0, abandonedFrames := 0, droppedFrames := 0, opened := false
            lastReset := cause
            rate := (match straps.br1, straps.br0 with
              | .low, .low => 0
              | .low, .high => 1
              | .high, .low => 2
              | .high, .high => 3) }) ∧
    (s.inReset = none → exec (.hardResetEnd straps) s = .next s) ∧
    ((∀ x, s.link.transmission = some x → x.endsInFullReset = false) → exec (.fullReset straps) s = .next s)

/-! ### The line unit and the timebase -/

/-- A sample instant: each conditioner by its filter, or at the first instant after a reset set from the sample without an
edge, and each slot's view of the changes on the lines it claims (R33, R34, R37, R47).  The first sample by the polarity
then configured, and without an update whatever claims stand, is the model's inference (log 9); a candidate reaches the
filter at or above it (log 21).  The command waits while an update of an earlier instant is untaken, and does nothing in a
hard reset (the model's choices, logs 4 and 2); the events of an earlier instant are over first (R144; log 8). -/
def Obligations.SampleInstantFormsChangesAndViews : Prop :=
  ∀ (s : State) (levels : Bank Level 12),
    (s.inReset ≠ none ∨ (∃ k, s.tasks.updates.get k ≠ none) → exec (.sampleInstant levels) s = .next s) ∧
    (s.inReset = none → (∀ k, s.tasks.updates.get k = none) →
      ∃ t, exec (.sampleInstant levels) s = .next t ∧
        (∀ l,
          t.lines.inputs.get l =
            { s.lines.inputs.get l with
              raw := levels.get l
              cond :=
                if s.lines.sampled = false then (s.lines.inputs.get l).polarity.condOf (levels.get l)
                else if (s.lines.inputs.get l).polarity.condOf (levels.get l) ≠ (s.lines.inputs.get l).cond ∧
                    (s.lines.inputs.get l).filter ≤ (s.lines.inputs.get l).candidate.getD 0 then
                  (s.lines.inputs.get l).cond.other
                else (s.lines.inputs.get l).cond
              candidate :=
                if s.lines.sampled = true ∧
                    (s.lines.inputs.get l).polarity.condOf (levels.get l) ≠ (s.lines.inputs.get l).cond ∧
                    (s.lines.inputs.get l).candidate.getD 0 < (s.lines.inputs.get l).filter then
                  some ((s.lines.inputs.get l).candidate.getD 0 + 1)
                else none }) ∧
        (∀ k,
          (t.tasks.updates.get k = none ↔
            s.lines.sampled = false ∨
              ∀ l, (∃ r, (k, r) ∈ (s.lines.inputs.get l).claims) →
                (t.lines.inputs.get l).cond = (s.lines.inputs.get l).cond) ∧
          ∀ v, t.tasks.updates.get k = some v →
            v.time = s.timebase.time ∧
              (∀ l c, (l, c) ∈ v.changes ↔
                (∃ r, (k, r) ∈ (s.lines.inputs.get l).claims) ∧ (s.lines.inputs.get l).cond ≠ c ∧
                  (t.lines.inputs.get l).cond = c) ∧
              ∀ l c, (l, c) ∈ v.levels ↔
                (∃ r, (k, r) ∈ (s.lines.inputs.get l).claims) ∧ (t.lines.inputs.get l).cond = c) ∧
        t.lines.sampled = true ∧ t.lines.outputs = s.settle.lines.outputs ∧ t.tasks.slots = s.settle.tasks.slots ∧
        t.timebase = s.timebase ∧ t.programs = s.programs ∧ t.reports = s.settle.reports ∧ t.events = [] ∧
        t.link = s.link ∧ t.inReset = s.inReset ∧ t.pending = s.pending)

/-- A tick boundary raises device time by one, wrapping, and the tick phase of every working TIMEBASE task; at the divider
the phase returns to 0 and a task clock falls (R50, R56, R57).  It waits while an event of the present instant is
untaken (the model's choice, log 4), what these events offered enters the queue before it (R144; log 8), and none falls in
a hard reset (R61). -/
def Obligations.TickBoundaryCountsTimeAndPhases : Prop :=
  ∀ s : State,
    (s.inReset = none → (∀ k, s.tasks.updates.get k = none) →
      (∀ k a, s.task? k = some a → ¬(a.works = true ∧ a.clockDue = true) ∧
        ¬(a.inRun = true ∧ a.engine.expiryDue = true)) →
      (∀ l, (s.lines.outputs.get l).markEnd ≠ some s.timebase.time) →
      ∃ t, exec .tickBoundary s = .next t ∧ t.timebase = { s.timebase with time := s.timebase.time + 1 } ∧
        (∀ k, t.task? k =
          (match s.settle.task? k with
           | none => none
           | some a =>
             (match a.common.clock with
              | .line _ => some a
              | .timebase d =>
                if (a.state = .running ∨ a.state = .stopping) ∧ a.held = false then
                  if a.tickPhase + 1 < d then some { a with tickPhase := a.tickPhase + 1 }
                  else some { a with tickPhase := 0, clockDue := true }
                else some a))) ∧
        t.tasks.updates = s.tasks.updates ∧ t.lines = s.settle.lines ∧ t.programs = s.programs ∧
        t.reports = s.settle.reports ∧ t.events = [] ∧ t.link = s.link ∧ t.inReset = s.inReset ∧ t.pending = s.pending) ∧
    (s.inReset ≠ none ∨ (∃ k, s.tasks.updates.get k ≠ none) ∨
        (∃ k a, s.task? k = some a ∧ ((a.works = true ∧ a.clockDue = true) ∨
          (a.inRun = true ∧ a.engine.expiryDue = true))) ∨
        (∃ l, (s.lines.outputs.get l).markEnd = some s.timebase.time) →
      exec .tickBoundary s = .next s)

/-- A MARK pulse ends where device time has reached its end time: the line idle, the field absent, nothing else; before
that time the command does nothing (R44; log 2). -/
def Obligations.MarkPulseEndsAtItsEndTime : Prop :=
  ∀ (s : State) (l : OutLine),
    (s.inReset = none → (s.lines.outputs.get l).markEnd = some s.timebase.time →
      exec (.markExpiry l) s = .next
        { s with
          lines :=
            { s.lines with
              outputs := s.lines.outputs.set l
                { s.lines.outputs.get l with level := (s.lines.outputs.get l).idle, markEnd := none } } }) ∧
    (s.inReset ≠ none ∨ (s.lines.outputs.get l).markEnd ≠ some s.timebase.time →
      exec (.markExpiry l) s = .next s)

/-! ### The report queue -/

/-- An ordinary report offered to the queue: admitted at an occupancy of 62 or less with the next sequence; otherwise lost,
into an open GAP at the tail, into a new GAP at occupancy 63, or into lost_count at 64 (R143, R145, R149, R150, R151). -/
def Obligations.OfferedReportIsAdmittedOrCounted : Prop :=
  ∀ (q : ReportQueue) (source : Source) (epoch : Epoch) (time : Time) (r : Report),
    (q.entries.length ≤ 62 →
      q.offer source epoch time r =
        { q with
          entries := q.entries ++
            [{ seq := q.nextSeq, delivery := .pending, report := r, source := source, epoch := epoch, time := time }]
          nextSeq := q.nextSeq + 1 }) ∧
    (∀ older gap count, 63 ≤ q.entries.length → q.entries = older ++ [gap] → gap.report = .gap count true →
      q.offer source epoch time r =
        { q with entries := older ++ [{ gap with report := .gap (min 65535 (count + 1)) true }] }) ∧
    (63 ≤ q.entries.length →
      (∀ older gap count, q.entries = older ++ [gap] → gap.report ≠ .gap count true) →
      q.offer source epoch time r =
        if q.entries.length = 63 then
          { q with
            entries := q.entries ++
              [{ seq := q.nextSeq, delivery := .pending, report := .gap (min 65535 (q.lostCount + 1)) true
                 source := .device, epoch := epoch, time := time }]
            nextSeq := q.nextSeq + 1
            lostCount := 0 }
        else { q with lostCount := min 65535 (q.lostCount + 1) })

/-- A turn of slot j is one event of the queue: it takes the slot's oldest waiting offer where that offer is next in its
event, which is the first of the engine's own, or with none of these left any of the others (R138, R145, R147).  A CRITICAL
task whose report is refused is noted, and the last offer of an event ends it: the noted tasks fault, and their TASK_FAULTs
wait in their turn (R25, R154; the waiting across commands: log 8).  The turns of a command are those its order mentions,
and what is then left waits or is taken in the order it was offered (log 7). -/
def Obligations.TurnsKeepEachEnginesOrder : Prop :=
  (∀ (s : State) (j : Slot), (∀ e ∈ s.events, ∀ o ∈ e.offers, o.slot ≠ j) → s.takeTurn j = s) ∧
    (∀ (s : State) (j : Slot) (before after : List OpenEvent) (e : OpenEvent), s.events = before ++ e :: after →
      (∀ x ∈ before, ∀ o ∈ x.offers, o.slot ≠ j) → (∃ o ∈ e.offers, o.slot = j) →
      (∀ o own, e.own = o :: own → o.slot ≠ j → s.takeTurn j = s) ∧
      ∀ (o : Offer) (e' : OpenEvent), o.slot = j →
        (∃ own, e.own = o :: own ∧ e' = { e with own := own }) ∨
          (e.own = [] ∧ ∃ l r, e.free = l ++ o :: r ∧ (∀ x ∈ l, x.slot ≠ j) ∧ e' = { e with free := l ++ r }) →
        ∀ (q : ReportQueue) (lost : List Slot), q = s.reports.offer (.slot j) e.epoch e.time o.report →
          (63 ≤ s.reports.entries.length ∧ o.reportClass = .critical ∧
              (∀ reason value, o.report ≠ .taskFault reason value) ∧ lost = e.lost ++ [j]) ∨
            ((s.reports.entries.length ≤ 62 ∨ o.reportClass = .normal ∨
              ∃ reason value, o.report = .taskFault reason value) ∧ lost = e.lost) →
          (e'.offers ≠ [] →
            s.takeTurn j = { s with reports := q, events := before ++ { e' with lost := lost } :: after }) ∧
          (e'.offers = [] →
            ∃ faults, FaultsTaken s (s.takeTurn j) (fun x => x ∈ lost) faults ∧ (s.takeTurn j).reports = q ∧
              (s.takeTurn j).events =
                before ++ (if faults = [] then [] else [{ e with own := [], free := faults, lost := [] }]) ++ after)) ∧
    ∀ (s : State) (order : List Slot) (j : Slot) (leave : Bool),
      s.takeTurns { order := j :: order, leave := leave } = (s.takeTurn j).takeTurns { order := order, leave := leave } ∧
        s.takeTurns { order := [], leave := true } = s ∧ s.takeTurns { order := [], leave := false } = s.settle

/-- An event brought to its end, whatever command it is of (a start by START_TASK, START_GROUP or a trigger, a stop that ends a
run, a RESTART, a segment's end, a position's reports, every completion): its offers are taken in turn, each CRITICAL task a
report of which is refused faults at the end with reason REPORT_LOST, once, its outputs idle, and the TASK_FAULTs are
offered: lost in their turn while the queue is full, admitted where room has been made (R24, R25, R138, R145, R146, R154).
Open events end oldest first, and none is left (log 8); a request brings its own to its end within itself, and the others
stay open (R144, R183). -/
def Obligations.EventEndsWithTheFaultsOfItsLosses : Prop :=
  (∀ (s : State) (e : OpenEvent), ∃ faults,
    FaultsTaken s (s.settleEvent e) (fun j => j ∈ e.lost ∨ Loses s.reports e.epoch e.time e.offers j) faults ∧
      (s.settleEvent e).reports = offered s.reports e.epoch e.time (e.offers ++ faults) ∧
      (s.settleEvent e).events = s.events) ∧
    (∀ s : State, s.events = [] → s.settle = s) ∧
    (∀ (s : State) (e : OpenEvent) (rest : List OpenEvent), s.events = e :: rest →
      s.settle = (State.settleEvent { s with events := rest } e).settle) ∧
    (∀ (s : State) (slots : List Slot) (rid : OpenEvent → Prop),
      (rid = fun x => ∀ k ∈ slots, k ∉ x.lost ∧ ∀ o ∈ x.offers, o.slot ≠ k) →
      ((∀ x ∈ s.events, rid x) → s.clearFor slots = s ∧ s.endEventsOf slots = s) ∧
      ((∃ x ∈ s.events, ¬ rid x) → s.clearFor slots = s.settle) ∧
      ∀ before e, s.events = before ++ [e] → (∀ x ∈ before, rid x) → ¬ rid e →
        s.endEventsOf slots = State.settleEvent { s with events := before } e) ∧
    ∀ (s : State) (e : OpenEvent) (j : Slot) (a : Task) (final : BitVec 32), s.events = [e] → e.own = [] →
      e.free = [offerOf j a (.taskFault .reportLost final)] → e.lost = [] → s.reports.entries.length ≤ 62 →
      s.settle =
        { s with
          reports :=
            { s.reports with
              entries := s.reports.entries ++
                [{ seq := s.reports.nextSeq, delivery := .pending, report := .taskFault .reportLost final
                   source := .slot j, epoch := e.epoch, time := e.time }]
              nextSeq := s.reports.nextSeq + 1 }
          events := [] }

/-! ### The engines -/

/-- An update, a task clock or an expiry taken at slot `k` touches nothing but that slot, the slots ARMED with AFTER on it,
the levels and pulses of the outputs these own, and the offers that wait for the queue, to which it adds only their reports;
the queue's turns follow it (R13, R14, R19, R39, R57, R131, R138, R147).  These turns change nothing but the queue, the
waiting offers and the slots that an open event may still fault, with the outputs these own (R25, R154; log 8). -/
def Obligations.EngineEventTouchesOnlyItsOwn : Prop :=
  (∀ (s : State) (k : Slot) (c : Turns → Instr), s.OwnershipSound →
    (c = .taskUpdate k ∨ c = .taskClock k ∨ c = .deadlineExpiry k) → (∀ j ∈ s.concerned k, s.undecided j = false) →
    (s.inReset ≠ none ∧ ∀ turns, exec (c turns) s = .next s) ∨
      ∃ t, (∀ turns, exec (c turns) s = .next (t.takeTurns turns)) ∧ OtherBlocksKept s t ∧ t.link = s.link ∧
        t.reports = s.reports ∧
        (t.events = s.events ∨
          ∃ e, t.events = s.events ++ [e] ∧ e.lost = [] ∧ ∀ o ∈ e.offers, o.slot ∈ s.concerned k) ∧
        (∀ j, j ≠ k → t.tasks.updates.get j = s.tasks.updates.get j) ∧
        (∀ j, j ≠ k → j ∉ s.dependents k → t.task? j = s.task? j) ∧
        (∀ j a, s.task? j = some a → ∃ b, t.task? j = some b ∧ b.common = a.common ∧
          b.engine.params = a.engine.params) ∧
        (∀ l, (t.lines.outputs.get l).idle = (s.lines.outputs.get l).idle ∧
          (t.lines.outputs.get l).owner = (s.lines.outputs.get l).owner) ∧
        ∀ l, (∀ j r, (s.lines.outputs.get l).owner = .task j r → j ≠ k ∧ j ∉ s.dependents k) →
          t.lines.outputs.get l = s.lines.outputs.get l) ∧
    ∀ (s t : State) (turns : Turns), t = s.takeTurns turns →
      OtherBlocksKept s t ∧ t.link = s.link ∧ t.tasks.updates = s.tasks.updates ∧
        (∀ j, s.undecided j = false → t.task? j = s.task? j) ∧
        (∀ l, (t.lines.outputs.get l).idle = (s.lines.outputs.get l).idle ∧
          (t.lines.outputs.get l).owner = (s.lines.outputs.get l).owner) ∧
        ∀ l, (∀ j r, (s.lines.outputs.get l).owner = .task j r → s.undecided j = false) →
          t.lines.outputs.get l = s.lines.outputs.get l

/-- An update is taken once, and in IDLE, DONE and FAULTED, and in ARMED but for the trigger edge that starts the task, it
does nothing else (R14, R15).  With no update, task clock or expiry due the command gives the queue its turns alone, and in
a hard reset it does nothing (for a command whose moment has not come: the model's choice, log 2).  Where an earlier event
may still fault the task or a slot ARMED with AFTER on it, the open events are over first (R23, R25; log 8). -/
def Obligations.UpdatesAreTakenOnceAndIgnoredAtRest : Prop :=
  ∀ (s : State) (k : Slot) (turns : Turns),
    (∀ v, s.inReset = none → s.tasks.updates.get k = some v →
      ∃ t, exec (.taskUpdate k turns) s = .next t ∧ t.tasks.updates = s.tasks.updates.set k none) ∧
    (∀ v a, TakesUpdate s k v a →
      (a.state = .idle ∨ a.state = .done ∨ a.state = .faulted ∨
        (a.state = .armed ∧ ¬(a.common.start = .trigger ∧ v.triggerEdge a.common = true))) →
      exec (.taskUpdate k turns) s = .next ((s.tookUpdate k a).takeTurns turns)) ∧
    (s.inReset = none → s.tasks.updates.get k = none → exec (.taskUpdate k turns) s = .next (s.takeTurns turns)) ∧
    (s.inReset = none → (∀ a, s.task? k = some a → ¬(a.works = true ∧ a.clockDue = true)) →
      exec (.taskClock k turns) s = .next (s.takeTurns turns)) ∧
    (s.inReset = none → (∀ a, s.task? k = some a → ¬(a.inRun = true ∧ a.engine.expiryDue = true)) →
      exec (.deadlineExpiry k turns) s = .next (s.takeTurns turns)) ∧
    (s.inReset ≠ none →
      exec (.taskUpdate k turns) s = .next s ∧ exec (.taskClock k turns) s = .next s ∧
        exec (.deadlineExpiry k turns) s = .next s) ∧
    ∀ c : Instr, s.inReset = none → (∃ j ∈ s.concerned k, s.undecided j = true) →
      (c = .taskUpdate k turns ∧ s.tasks.updates.get k ≠ none) ∨
        (c = .taskClock k turns ∧ ∃ a, s.task? k = some a ∧ a.works = true ∧ a.clockDue = true) ∨
        (c = .deadlineExpiry k turns ∧ ∃ a, s.task? k = some a ∧ a.inRun = true ∧ a.engine.expiryDue = true) →
      exec c s = exec c s.settle

/-- A trigger edge starts an ARMED task whose start is TRIGGER, with cause TRIGGER and at the levels of the update, its counts
kept (R12, R15); no other slot changes, and no working edge is taken (R14). -/
def Obligations.TriggerEdgeStartsAnArmedTask : Prop :=
  ∀ (s : State) (k : Slot) (v : View) (a : Task) (turns : Turns), TakesUpdate s k v a →
    v.triggerEdge a.common = true → a.state = .armed → a.common.start = .trigger →
    ∃ t, exec (.taskUpdate k turns) s = .next (t.takeTurns turns) ∧ Started s t k (v.level s) v.time id ∧
      (∀ j, j ≠ k → t.task? j = s.task? j) ∧ t.tasks.updates = s.tasks.updates.set k none ∧ OtherBlocksKept s t ∧
      t.reports = s.reports ∧ t.events = (s.offering v.time [] (startOffers k a .trigger)).events ∧
      (∀ l, (∀ p r, a.engine = .pulseTrain p r → l ≠ p.wave) → t.lines.outputs.get l = s.lines.outputs.get l) ∧
      t.link = s.link

/-- A trigger edge in a run, whatever the gate does in the same update: at a waiting WAIT segment it releases the wait and is
no overrun (R15, R77); otherwise it is an overrun that STOPPING and policy IGNORE count alone, RESTART answers with a new run
(R16) and FAULT with the task fault TRIGGER_OVERRUN, its outputs idle (R15, R24).  Where it releases or is only counted, the
working edges of the update are taken as `Works` says of each kind (R14). -/
def Obligations.TriggerEdgeInARunReleasesOrOverruns : Prop :=
  ∀ (s : State) (k : Slot) (v : View) (a : Task) (turns : Turns), TakesUpdate s k v a →
    v.triggerEdge a.common = true → (a.state = .running ∨ a.state = .stopping) →
    (∀ p r, a.engine = .pulseTrain p r → r.waiting = true →
      (∃ b, a.reads v = some b ∧ b.engine = .pulseTrain p { r with waiting := false } ∧
        b.overrunCount = a.overrunCount) ∧
      (v.clockEdge a.common = false → (∀ g, a.common.gate = some g → v.changeOf g.line = none) →
        exec (.taskUpdate k turns) s =
          .next ((s.tookUpdate k { a with engine := .pulseTrain p { r with waiting := false } }).takeTurns turns))) ∧
    (a.engine.waits = false → (a.state = .stopping ∨ a.common.policy = .ignore) →
      (∃ b, a.reads v = some b ∧ b.engine = a.engine ∧ b.overrunCount = min 65535 (a.overrunCount + 1)) ∧
      (∃ (t : State) (b : Task), exec (.taskUpdate k turns) s = .next (t.takeTurns turns) ∧ t.reports = s.reports ∧
        t.task? k = some b ∧ b.overrunCount = min 65535 (a.overrunCount + 1)) ∧
      (a.held = true → (∀ g, a.common.gate = some g → v.changeOf g.line = none) →
        exec (.taskUpdate k turns) s =
          .next ((s.tookUpdate k { a with overrunCount := min 65535 (a.overrunCount + 1) }).takeTurns turns))) ∧
    (a.engine.waits = false → a.state = .running → a.common.policy = .restart →
      ∃ t, exec (.taskUpdate k turns) s = .next (t.takeTurns turns) ∧
        Started s t k (v.level s) v.time (fun n => min 65535 (n + 1)) ∧
        (∀ j, j ≠ k → t.task? j = s.task? j) ∧ t.tasks.updates = s.tasks.updates.set k none ∧ OtherBlocksKept s t ∧
        t.link = s.link ∧ t.reports = s.reports ∧
        t.events =
          (s.offering v.time
            [offerOf k a (.taskRestarted a.engine.principal (min 65535 (a.overrunCount + 1)))] []).events ∧
        (∀ l, (∀ p r, a.engine = .pulseTrain p r → l ≠ p.wave) → t.lines.outputs.get l = s.lines.outputs.get l)) ∧
    (a.engine.waits = false → a.state = .running → a.common.policy = .fault →
      ∃ t b, exec (.taskUpdate k turns) s = .next (t.takeTurns turns) ∧ t.task? k = some b ∧ b.state = .faulted ∧
        b.faultReason = some .triggerOverrun ∧ b.held = false ∧ b.common = a.common ∧ b.runCount = a.runCount ∧
        b.overrunCount = min 65535 (a.overrunCount + 1) ∧
        b.engine =
          (match a.engine with
           | .deadline p r => .deadline p { r with expiryDue := false, alert := false }
           | e => e) ∧
        (∀ j, j ≠ k → t.task? j = s.task? j) ∧ t.tasks.updates = s.tasks.updates.set k none ∧ OtherBlocksKept s t ∧
        t.link = s.link ∧ t.reports = s.reports ∧
        t.events = (s.offering v.time [offerOf k a (.taskFault .triggerOverrun a.engine.principal)] []).events ∧
        (∀ l r, (s.lines.outputs.get l).owner = .task k r →
          t.lines.outputs.get l =
            { s.lines.outputs.get l with level := (s.lines.outputs.get l).idle, markEnd := none }) ∧
        ∀ l, (∀ r, (s.lines.outputs.get l).owner ≠ .task k r) → t.lines.outputs.get l = s.lines.outputs.get l)

/-- A gate change in a run: closing sets held, discards the tick phase and a task clock not yet taken, and the update's
working edges are ignored; opening clears held, and the working edges are then taken as `Works` says of each kind (R14,
R17, R18, R58).  A held run takes no working edge of any update, whatever its trigger edge is (R15, R18). -/
def Obligations.GateChangeHoldsOrReleases : Prop :=
  ∀ (s : State) (k : Slot) (v : View) (a : Task) (turns : Turns), TakesUpdate s k v a →
    (a.state = .running ∨ a.state = .stopping) →
    (∀ b, a.reads v = some b → b.held = true →
      exec (.taskUpdate k turns) s = .next ((s.tookUpdate k b).takeTurns turns)) ∧
    ∀ (g : Gate) (c : Cond), a.common.gate = some g → v.changeOf g.line = some c →
      (c ≠ g.openWhen → v.triggerEdge a.common = false →
        exec (.taskUpdate k turns) s =
          .next ((s.tookUpdate k { a with held := true, tickPhase := 0, clockDue := false }).takeTurns turns)) ∧
      (c = g.openWhen →
        (∀ b, a.reads v = some b → Works s k v b) ∧
        (v.triggerEdge a.common = false →
          a.reads v = some { a with held := false } ∧
          (∃ (t : State) (b : Task), exec (.taskUpdate k turns) s = .next (t.takeTurns turns) ∧ t.reports = s.reports ∧
            t.task? k = some b ∧ b.held = false) ∧
          ((∀ l, l ≠ g.line → v.changeOf l = none) →
            (∀ r, (g.line, r) ∈ claimsOf a.common a.engine.params → r = .gate) →
            (∀ p r, a.engine ≠ .position p r) →
            exec (.taskUpdate k turns) s = .next ((s.tookUpdate k { a with held := false }).takeTurns turns))))

/-- A task clock at a PULSE_TRAIN engine: nothing while it waits; the current segment runs on, or ends with its SEGMENT_END
where flagged; then the next segment, or the next loop, begins at its level, or the run completes with TRAIN_END (R71,
R74, R75, R76, R77, R82).  An update without an edge of its clock line leaves it (R14). -/
def Obligations.PulseTrainPlaysItsSegments : Prop :=
  (∀ (s : State) (k : Slot) (v : View) (a : Task) (turns : Turns) (p : TrainParams) (r : TrainRun), Works s k v a →
    a.engine = .pulseTrain p r → v.clockEdge a.common = false →
    exec (.taskUpdate k turns) s = .next ((s.tookUpdate k a).takeTurns turns)) ∧
  ∀ (s : State) (k : Slot) (a : Task) (turns : Turns) (c : Instr) (now : Time) (left : Task → State)
    (p : TrainParams) (r : TrainRun), ClockFalls s k a turns c now left → a.engine = .pulseTrain p r →
    (r.waiting = true → exec c s = .next ((left a).takeTurns turns)) ∧
    (r.waiting = false → 2 ≤ r.remaining →
      exec c s =
        .next ((left { a with engine := .pulseTrain p { r with remaining := r.remaining - 1 } }).takeTurns turns)) ∧
    ∀ (g : Segment) (first : List Report), r.waiting = false → r.remaining = 1 →
      (s.segments p.program)[r.index]? = some g →
      first =
        (if g.reportEnd then [.segmentEnd r.index (if p.loops = 0 then 0 else p.loops - r.loopsDone)] else []) →
      (∀ (next : Segment) (i loops : Nat) (t : State),
        (r.index + 1 < (s.segments p.program).length ∧ i = r.index + 1 ∧ loops = r.loopsDone) ∨
          (r.index + 1 = (s.segments p.program).length ∧ i = 0 ∧ loops = min 65535 (r.loopsDone + 1) ∧
            a.state = .running ∧ ¬(p.loops ≠ 0 ∧ loops = p.loops)) →
        (s.segments p.program)[i]? = some next →
        t = left
          { a with
            engine :=
              .pulseTrain p { index := i, remaining := next.duration, loopsDone := loops, waiting := next.wait } } →
        exec c s = .next
          ((State.offering
            { t with
              lines :=
                { t.lines with
                  outputs := t.lines.outputs.set p.wave
                    { t.lines.outputs.get p.wave with
                      level :=
                        if next.level = .active then otherLevel (t.lines.outputs.get p.wave).idle
                        else (t.lines.outputs.get p.wave).idle } } }
            now (first.map (offerOf k a)) []).takeTurns turns)) ∧
      ∀ (loops : Nat) (begin : Segment), r.index + 1 = (s.segments p.program).length →
        (s.segments p.program)[0]? = some begin → loops = min 65535 (r.loopsDone + 1) →
        (a.state = .stopping ∨ (p.loops ≠ 0 ∧ loops = p.loops)) → s.OwnershipSound →
        ∃ t e, exec c s = .next (t.takeTurns turns) ∧
          Completed s t k a now (first ++ [.trainEnd loops]) (BitVec.ofNat 32 loops) e ∧
          (a.goesOn → e = .pulseTrain p
            { index := 0, remaining := begin.duration, loopsDone := 0, waiting := begin.wait }) ∧
          (¬a.goesOn → e = .pulseTrain p { r with remaining := 0, loopsDone := loops }) ∧
          ((t.lines.outputs.get p.wave).level = (s.lines.outputs.get p.wave).idle ↔
            ¬(a.goesOn ∧ begin.level = .active))

/-- An ACTIVE edge of SIGNAL raises the count of an EVENT_COUNT at work by one; at the limit the run completes with
COUNT_LIMIT and a mark event (R43, R89, R90); other updates leave it, and so does every task clock of the TIMEBASE (R86; the
task clocks of this kind: the model's inference, log 19). -/
def Obligations.EventCountRunsToItsLimit : Prop :=
  (∀ (s : State) (k : Slot) (v : View) (a : Task) (turns : Turns) (p : CountParams) (count : Nat),
    Works s k v a → a.engine = .eventCount p count →
    (v.edge p.signal .active = false → exec (.taskUpdate k turns) s = .next ((s.tookUpdate k a).takeTurns turns)) ∧
    (v.edge p.signal .active = true → count + 1 < p.limit →
      exec (.taskUpdate k turns) s =
        .next ((s.tookUpdate k { a with engine := .eventCount p (count + 1) }).takeTurns turns)) ∧
    (v.edge p.signal .active = true → count + 1 = p.limit → s.OwnershipSound →
      ∃ t e, exec (.taskUpdate k turns) s = .next (t.takeTurns turns) ∧
        Completed s t k a v.time [.countLimit p.limit (min 65535 (a.runCount + 1))] (BitVec.ofNat 32 (count + 1)) e ∧
        (a.goesOn → e = .eventCount p 0) ∧ (¬a.goesOn → e = .eventCount p (count + 1)) ∧ MarkPulsed s t a v.time)) ∧
    ∀ (s : State) (k : Slot) (a : Task) (turns : Turns) (p : CountParams) (count : Nat),
      Clocked s k a → a.engine = .eventCount p count →
      exec (.taskClock k turns) s = .next ((s.tookClock k { a with clockDue := false }).takeTurns turns)

/-- The working edges of a SPAN: the ACTIVE edge opens it in RUNNING, the clock edge counts, and the closing edge of its mode
completes the run with SPAN_RESULT and a mark event; a clock edge in an open span comes before its closing edge, and one
with the opening edge is counted (R94 to R99). -/
def Obligations.SpanEdgesOpenCountAndClose : Prop :=
  ∀ (s : State) (k : Slot) (v : View) (a : Task) (turns : Turns) (p : SpanParams) (r : SpanRun) (clock closing : Bool)
    (n : Nat), Works s k v a → a.engine = .span p r → clock = v.clockEdge a.common →
    closing = v.edge p.signal (if p.mode = .pulse then .inactive else .active) →
    n = r.count + (if clock then 1 else 0) →
    (r.phase = .awaiting →
      (a.state = .running ∧ v.edge p.signal .active = true →
        exec (.taskUpdate k turns) s =
          .next ((s.tookUpdate k
            { a with
              engine := .span p
                { phase := .counting, count := if clock then 1 else 0, spanStart := v.time } }).takeTurns turns)) ∧
      (¬(a.state = .running ∧ v.edge p.signal .active = true) →
        exec (.taskUpdate k turns) s = .next ((s.tookUpdate k a).takeTurns turns))) ∧
    (r.phase = .counting → n < 4294967295 → closing = false →
      exec (.taskUpdate k turns) s =
        .next ((s.tookUpdate k { a with engine := .span p { r with count := n } }).takeTurns turns)) ∧
    (r.phase = .counting → n < 4294967295 → closing = true → s.OwnershipSound →
      ∃ t e, exec (.taskUpdate k turns) s = .next (t.takeTurns turns) ∧
        Completed s t k a v.time [.spanResult n r.spanStart false] (BitVec.ofNat 32 n) e ∧
        (a.goesOn → p.mode = .period → e = .span p { phase := .counting, count := 0, spanStart := v.time }) ∧
        (a.goesOn → p.mode = .pulse → e = .span p { phase := .awaiting, count := 0, spanStart := 0 }) ∧
        (¬a.goesOn → e = .span p { r with phase := .awaiting, count := n }) ∧ MarkPulsed s t a v.time)

/-- A task clock at a SPAN: nothing in AWAITING; it counts in an open span, and at 4,294,967,295 the run completes as
overrange (R95, R96, R98).  A CONTINUOUS task then awaits in the initial form (its span start: the model's inference,
log 15). -/
def Obligations.SpanClocksCountToOverrange : Prop :=
  ∀ (s : State) (k : Slot) (a : Task) (turns : Turns) (c : Instr) (now : Time) (left : Task → State)
    (p : SpanParams) (r : SpanRun), ClockFalls s k a turns c now left → a.engine = .span p r →
    (c = .taskClock k turns → r.phase = .awaiting → exec c s = .next ((left a).takeTurns turns)) ∧
    (c = .taskClock k turns → r.phase = .counting → r.count + 1 < 4294967295 →
      exec c s = .next ((left { a with engine := .span p { r with count := r.count + 1 } }).takeTurns turns)) ∧
    (r.phase = .counting → r.count + 1 = 4294967295 → s.OwnershipSound →
      ∃ t e, exec c s = .next (t.takeTurns turns) ∧
        Completed s t k a now [.spanResult 4294967295 r.spanStart true] (BitVec.ofNat 32 4294967295) e ∧
        (a.goesOn → e = .span p { phase := .awaiting, count := 0, spanStart := 0 }) ∧
        (¬a.goesOn → e = .span p { r with phase := .awaiting, count := 4294967295 }) ∧ MarkPulsed s t a now)

/-- A WINDOW_COUNT at work, at an update and at a task clock: the ACTIVE WINDOW edge opens the window and counts what comes
with it; an open window counts SIGNAL edges and task clocks, and its closing edge, its duration or a full count completes
the run with WINDOW_RESULT and a mark event (R103 to R107; both counts before the limit: the model's inference, log
14). -/
def Obligations.WindowCountsUntilItCloses : Prop :=
  ∀ (s : State) (k : Slot) (a : Task) (turns : Turns) (c : Instr) (now : Time) (left : Task → State)
    (p : WindowParams) (r : WindowRun) (opening closing signal clock : Bool) (n m : Nat), a.engine = .windowCount p r →
    ((∃ v, Works s k v a ∧ c = .taskUpdate k turns ∧ now = v.time ∧ left = s.tookUpdate k ∧
          signal = v.edge p.signal .active ∧ clock = v.clockEdge a.common ∧
          (∀ w, p.source = .line w → opening = v.edge w .active ∧ closing = v.edge w .inactive) ∧
          (∀ d, p.source = .duration d → opening = false ∧ closing = (clock && decide (r.length + 1 = d)))) ∨
        (Clocked s k a ∧ c = .taskClock k turns ∧ now = s.timebase.time ∧
          left = (fun b => s.tookClock k { b with clockDue := false }) ∧ signal = false ∧ clock = true ∧
          opening = false ∧
          (∀ w, p.source = .line w → closing = false) ∧
          (∀ d, p.source = .duration d → closing = decide (r.length + 1 = d)))) →
    (∀ d, p.source = .duration d → r.phase = .counting → r.length < d) →
    r.count < 4294967295 → r.length < 4294967295 →
    n = r.count + (if signal then 1 else 0) → m = r.length + (if clock then 1 else 0) →
    (r.phase = .awaiting → opening = true →
      exec c s =
        .next ((left
          { a with
            engine :=
              .windowCount p
                { phase := .counting, count := if signal then 1 else 0
                  length := if clock then 1 else 0 } }).takeTurns turns)) ∧
    (r.phase = .awaiting → opening = false → exec c s = .next ((left a).takeTurns turns)) ∧
    (r.phase = .counting → closing = false → n < 4294967295 → m < 4294967295 →
      exec c s =
        .next ((left { a with engine := .windowCount p { r with count := n, length := m } }).takeTurns turns)) ∧
    (r.phase = .counting → (closing = true ∨ n = 4294967295 ∨ m = 4294967295) → s.OwnershipSound →
      ∃ t e, exec c s = .next (t.takeTurns turns) ∧
        Completed s t k a now [.windowResult n m] (BitVec.ofNat 32 n) e ∧
        (a.goesOn → ∃ phase, e = .windowCount p { phase := phase, count := 0, length := 0 } ∧
          (phase = .counting ↔ ∃ d, p.source = .duration d)) ∧
        (¬a.goesOn → e = .windowCount p { phase := .awaiting, count := n, length := m }) ∧ MarkPulsed s t a now)

/-- An update at a RUNNING POSITION task, whole and in the order of R120: the step in the direction of the table of R114 or
the phase error, the compare match, and the index event with its action; one MARK pulse for its mark events (R113 to
R120).  A task clock of the TIMEBASE leaves a POSITION (R111; the task clocks of this kind: the model's inference, log
19). -/
def Obligations.PositionTakesAnUpdateWhole : Prop :=
  (∀ (s : State) (k : Slot) (v : View) (a : Task) (turns : Turns) (p : PositionParams) (r r1 r2 : PositionRun)
    (first second : List Report) (a' b' i : Cond), Works s k v a → a.state = .running → a.engine = .position p r →
    a' = v.level s p.phaseA → b' = v.level s p.phaseB → i = (p.index.elim .inactive fun l => v.level s l) →
    r.afterPhases p (v.levelBefore p.phaseA a') (v.levelBefore p.phaseB b') a' b' = (r1, first) →
    r1.afterIndex p i a' b' = (r2, second) →
    exec (.taskUpdate k turns) s = .next
      ((State.offering
        { s.tookUpdate k { a with engine := .position p r2 } with
          lines :=
            { s.lines with
              outputs :=
                (match a.common.mark, (first ++ second).any Report.marks with
                 | some m, true =>
                   s.lines.outputs.set m.line
                     { s.lines.outputs.get m.line with
                       level := otherLevel (s.lines.outputs.get m.line).idle
                       markEnd := some (v.time + BitVec.ofNat 48 m.ticks) }
                 | _, _ => s.lines.outputs) } }
        v.time ((first ++ second).map (offerOf k a)) []).takeTurns turns)) ∧
    ∀ (s : State) (k : Slot) (a : Task) (turns : Turns) (p : PositionParams) (r : PositionRun),
      Clocked s k a → a.engine = .position p r →
      exec (.taskClock k turns) s = .next ((s.tookClock k { a with clockDue := false }).takeTurns turns)

/-- The working edges of a DEADLINE: the clock edge first; a kick below the minimum is the violation EARLY, at or above it the
kick begins a new window and releases the alert, an expiry already due or not; a clock edge that reaches the maximum with no
kick is the violation LATE (R128 to R133). -/
def Obligations.KickIsAcceptedEarlyOrLate : Prop :=
  ∀ (s : State) (k : Slot) (v : View) (a : Task) (turns : Turns) (p : DeadlineParams) (r : DeadlineRun)
    (clock kick : Bool) (n : Nat), Works s k v a → a.engine = .deadline p r → p.minimum < p.maximum →
    (r.expiryDue = false → r.elapsed < p.maximum) → (r.expiryDue = true → r.elapsed = p.maximum ∧ clock = false) →
    clock = v.clockEdge a.common → kick = v.edge p.kick .active → n = r.elapsed + (if clock then 1 else 0) →
    (kick = true → p.minimum ≤ n →
      exec (.taskUpdate k turns) s = .next
        (let t := s.tookUpdate k
          { a with
            engine := .deadline p { elapsed := 0, expiryDue := false, alert := false }
            tickPhase := 0
            clockDue := false }
         State.takeTurns
          { t with
            lines :=
              { s.lines with
                outputs :=
                  (match p.alert with
                   | some l => s.lines.outputs.set l
                       { s.lines.outputs.get l with level := (s.lines.outputs.get l).idle }
                   | none => s.lines.outputs) } }
          turns)) ∧
    (kick = false → n < p.maximum →
      exec (.taskUpdate k turns) s =
        .next ((s.tookUpdate k { a with engine := .deadline p { r with elapsed := n } }).takeTurns turns)) ∧
    (kick = false → r.expiryDue = true →
      exec (.taskUpdate k turns) s = .next ((s.tookUpdate k a).takeTurns turns)) ∧
    ∀ type, (kick = true ∧ n < p.minimum ∧ type = .early) ∨
        (kick = false ∧ r.expiryDue = false ∧ n = p.maximum ∧ type = .late) →
      s.OwnershipSound →
      ∃ t e, exec (.taskUpdate k turns) s = .next (t.takeTurns turns) ∧
        Completed s t k a v.time [.deadlineViolation type n] (BitVec.ofNat 32 n) e ∧
        (a.goesOn → e = .deadline p { elapsed := 0, expiryDue := false, alert := true }) ∧
        (¬a.goesOn → e = .deadline p { elapsed := n, expiryDue := false, alert := true }) ∧
        ∀ l, p.alert = some l → (t.lines.outputs.get l).level = otherLevel (s.lines.outputs.get l).idle

/-- A task clock of the TIMEBASE raises the elapsed count of a DEADLINE, and at the maximum an expiry is due (R128); the
expiry, taken held or not, is the violation LATE, which completes the run with the alert active (R131, R132, R133). -/
def Obligations.ExpiryFallsAtTheMaximumAndIsLate : Prop :=
  (∀ (s : State) (k : Slot) (a : Task) (turns : Turns) (p : DeadlineParams) (r : DeadlineRun), Clocked s k a →
    a.engine = .deadline p r →
    (r.expiryDue = true →
      exec (.taskClock k turns) s = .next ((s.tookClock k { a with clockDue := false }).takeTurns turns)) ∧
    (r.expiryDue = false → r.elapsed < p.maximum →
      exec (.taskClock k turns) s = .next
        ((s.tookClock k
          { a with
            clockDue := false
            engine := .deadline p
              { r with elapsed := r.elapsed + 1
                       expiryDue := decide (r.elapsed + 1 = p.maximum) } }).takeTurns turns))) ∧
    ∀ (s : State) (k : Slot) (a : Task) (turns : Turns) (p : DeadlineParams) (r : DeadlineRun), s.inReset = none →
      s.task? k = some a → (∀ j ∈ s.concerned k, s.undecided j = false) →
      (a.state = .running ∨ a.state = .stopping) → a.engine = .deadline p r → r.expiryDue = true →
      s.OwnershipSound →
      ∃ t e, exec (.deadlineExpiry k turns) s = .next (t.takeTurns turns) ∧
        Completed s t k a s.timebase.time [.deadlineViolation .late r.elapsed] (BitVec.ofNat 32 r.elapsed) e ∧
        (a.goesOn → e = .deadline p { elapsed := 0, expiryDue := false, alert := true }) ∧
        (¬a.goesOn → e = .deadline p { r with expiryDue := false, alert := true }) ∧
        ∀ l, p.alert = some l → (t.lines.outputs.get l).level = otherLevel (s.lines.outputs.get l).idle

/-! ### What every step keeps -/

/-- Every step keeps the report queue and the session sound: at most 64 entries of which 63 are ordinary, consecutive
sequence numbers, the SENT entries oldest and within the window, an open GAP PENDING, and a waiting loss only behind a
full queue (R140, R143, R145, R148, R150, R152, R157). -/
def Obligations.EveryStepKeepsTheReportQueueSound : Prop :=
  ∀ s t : State, s.reports.Sound → step s = .next t → t.reports.Sound

/-- Every step keeps the link sound: four places a queue, the counters in range, the running CRC that of the bytes received,
and the interpreter stopped exactly while the OK of RESET_DEVICE FULL is held or on its way (R176, R182, R183, R188,
R192). -/
def Obligations.EveryStepKeepsTheLinkSound : Prop :=
  ∀ s t : State, s.link.Sound → step s = .next t → t.link.Sound

/-- Every step keeps the segment store sound: each reference count is the number of tasks that name the program, a program in
use is SEALED, and the programs fit the pool (R62, R63, R64). -/
def Obligations.EveryStepKeepsTheSegmentStoreSound : Prop :=
  ∀ s t : State, s.StoreSound → step s = .next t → t.StoreSound

/-- Every step keeps the claims and the output owners in agreement with the task records (R2, R6, R35, R39; the kept order of a
claim list: log 16), and with them and the segment store, outside a hard reset, each output at the level its owner gives it:
idle without an owner and for a WAVE out of a run, at the current segment's level for a WAVE in a run, active for a MARK
while its pulse runs and for an ALERT while its flag is yes (R39, R43, R44, R71, R133). -/
def Obligations.EveryStepKeepsClaimsOwnersAndLevelsSound : Prop :=
  ∀ s t : State, s.OwnershipSound → step s = .next t →
    t.OwnershipSound ∧
      (s.StoreSound → (s.inReset = none → s.OutputsSound) → t.inReset = none → t.OutputsSound)

/-- Every step keeps every task record sound, over a sound segment store: held only in a run of a gated task, a fault reason
exactly in FAULTED, the tick phase below the divider, STOPPING only for a run that can finish, and each kind's run state in
its range, in a run a PULSE_TRAIN within a segment of its program and a DURATION window open and below its duration (R1,
R2, R17, R22, R56, R72, R85, R94, R98, R103, R105, R112, R127). -/
def Obligations.EveryStepKeepsTheTaskRecordsSound : Prop :=
  ∀ s t : State, s.StoreSound → s.TasksSound → step s = .next t → t.TasksSound

/-- Every step keeps each response, queued, held or in transmission, within the 120 bytes of a payload (R174). -/
def Obligations.EveryStepKeepsFramesWithinTheirLength : Prop :=
  ∀ s t : State, s.FramesFit → step s = .next t → t.FramesFit

/-- Every step keeps each conditioner with a filter of 0 to 63 and a candidate of 1 to the filter (R31, R33), and the
updates not yet taken and the open events those of the present instant and epoch, with an offer still waiting in each, none
in a hard reset (R37, R55, R144; the model's form: logs 4, 8, 13). -/
def Obligations.EveryStepKeepsConditionersAndEventsSound : Prop :=
  ∀ s t : State, step s = .next t →
    (s.ConditionersSound → t.ConditionersSound) ∧ (s.EventsSound → t.EventsSound)

/-- Each of these is changed by the commands named and by no other: the rate and the epoch, device time, the session, the
programs' content, the reset cause and the rate of the link, the opened flag, a line's polarity, filter, idle level, claims
and owner, and which slots are FREE (R7, R30, R38, R40, R41, R50, R51, R52, R65, R158, R189, R193). -/
def Obligations.OnlyTheNamedCommandsChangeWhatTheyOwn : Prop :=
  ∀ (s t : State) (c : Instr), exec c s = .next t → (∀ x, c ≠ .fullReset x) →
    (∀ x, c ≠ .hardResetEnd x) →
    t.pending = s.pending ∧
    ((∀ x, c ≠ .hardReset x) → t.inReset = s.inReset) ∧
    (c ≠ .setTick → t.timebase.rate = s.timebase.rate ∧ t.timebase.epoch = s.timebase.epoch) ∧
    (c ≠ .setTick → c ≠ .tickBoundary → t.timebase.time = s.timebase.time) ∧
    (c ≠ .openSessionClean → c ≠ .openSessionResume →
      t.link.opened = s.link.opened ∧ (c ≠ .closeSession → t.reports.session = s.reports.session)) ∧
    (c ≠ .loadProgram → c ≠ .appendProgram → c ≠ .eraseProgram →
      ∀ p, (t.programs.get p).segments = (s.programs.get p).segments ∧
        (t.programs.get p).state = (s.programs.get p).state) ∧
    t.link.lastReset = s.link.lastReset ∧ t.link.rate = s.link.rate ∧
    (c ≠ .configInput → ∀ l, (t.lines.inputs.get l).polarity = (s.lines.inputs.get l).polarity ∧
      (t.lines.inputs.get l).filter = (s.lines.inputs.get l).filter) ∧
    (c ≠ .configInput → (∀ x, c ≠ .sampleInstant x) → ∀ l,
      (t.lines.inputs.get l).cond = (s.lines.inputs.get l).cond) ∧
    (c ≠ .configOutput → ∀ l, (t.lines.outputs.get l).idle = (s.lines.outputs.get l).idle) ∧
    (c ≠ .defineTask → c ≠ .deleteTask → c ≠ .resetDeviceTasks →
      (∀ l, (t.lines.inputs.get l).claims = (s.lines.inputs.get l).claims) ∧
        (∀ k, t.task? k = none ↔ s.task? k = none) ∧
        (c ≠ .setOutputActive → c ≠ .setOutputIdle → c ≠ .setOutputRelease →
          ∀ l, (t.lines.outputs.get l).owner = (s.lines.outputs.get l).owner))
end

