-- ==== Sys2Proof/Laws/Bank.lean ====
section
/-! SUPPORT. The laws of a bank of like things: what a place holds after each way of writing one. -/

namespace Sys2Proof

variable {α β : Type} {n : Nat}

@[ext] theorem Bank.ext {b c : Bank α n} (h : ∀ i, b.get i = c.get i) : b = c := by
  cases b with
  | mk bs hb =>
    cases c with
    | mk cs hc =>
      have : bs = cs := List.ext_getElem (hb.trans hc.symm) fun i hi _ => h ⟨i, hb ▸ hi⟩
      subst this
      rfl

@[simp] theorem Bank.get_set_self (b : Bank α n) (i : Fin n) (a : α) : (b.set i a).get i = a := by
  simp [Bank.get, Bank.set]

@[simp] theorem Bank.get_set_ne (b : Bank α n) {i j : Fin n} (a : α) (h : j ≠ i) : (b.set i a).get j = b.get j := by
  have h' : ¬(i.val = j.val) := fun e => h (Fin.ext e.symm)
  simp [Bank.get, Bank.set, h']

theorem Bank.get_set (b : Bank α n) (i j : Fin n) (a : α) : (b.set i a).get j = if j = i then a else b.get j := by
  by_cases h : j = i
  · subst h; simp
  · simp [h]

@[simp] theorem Bank.set_get (b : Bank α n) (i : Fin n) : b.set i (b.get i) = b := by
  ext j
  by_cases h : j = i
  · subst h; simp
  · simp [h]

@[simp] theorem Bank.set_set (b : Bank α n) (i : Fin n) (a c : α) : (b.set i a).set i c = b.set i c := by
  ext j
  by_cases h : j = i
  · subst h; simp
  · simp [h]

@[simp] theorem Bank.get_fill (a : α) (i : Fin n) : (Bank.fill n a).get i = a := by
  simp [Bank.get, Bank.fill]

@[simp] theorem Bank.get_build (f : Fin n → α) (i : Fin n) : (Bank.build n f).get i = f i := by
  simp [Bank.get, Bank.build]

@[simp] theorem Bank.get_map (f : α → β) (b : Bank α n) (i : Fin n) : (b.map f).get i = f (b.get i) := by
  simp [Bank.get, Bank.map]

@[simp] theorem Bank.get_modify_self (b : Bank α n) (i : Fin n) (f : α → α) : (b.modify i f).get i = f (b.get i) := by
  simp [Bank.modify]

@[simp] theorem Bank.get_modify_ne (b : Bank α n) {i j : Fin n} (f : α → α) (h : j ≠ i) :
    (b.modify i f).get j = b.get j := by
  simp [Bank.modify, h]

/-- Some cell satisfies a test exactly when some place's thing does. -/
theorem Bank.any_iff {b : Bank α n} {f : α → Bool} : b.cells.any f = true ↔ ∃ i, f (b.get i) = true := by
  rw [List.any_eq_true]
  constructor
  · rintro ⟨a, ha, hf⟩
    obtain ⟨i, hi, rfl⟩ := List.getElem_of_mem ha
    exact ⟨⟨i, b.size_eq ▸ hi⟩, hf⟩
  · rintro ⟨i, hf⟩
    exact ⟨b.get i, List.getElem_mem _, hf⟩

@[simp] theorem mem_indices (i : Fin n) : i ∈ indices n := by simp [indices]

theorem indices_nodup (n : Nat) : (indices n).Nodup := by
  simp [indices, List.nodup_ofFn, Function.Injective]

/-- A number is named as a place exactly when it is below the bound. -/
theorem finOf?_eq_some {v : Nat} {i : Fin n} : finOf? n v = some i ↔ v = i.val := by
  unfold finOf?
  split
  · simp only [Option.some.injEq, Fin.ext_iff]
  · constructor
    · intro h; cases h
    · intro h; exact absurd (h ▸ i.isLt) ‹¬v < n›

theorem finOf?_eq_none {v : Nat} : finOf? n v = none ↔ n ≤ v := by
  unfold finOf?
  split
  · constructor
    · intro h; cases h
    · intro h; omega
  · simp only [true_iff]; omega

end Sys2Proof
end

