-- ==== Sys2Proof/Laws/State.lean ====
section
/-! SUPPORT. One lemma per field per update of the state: what each named update of Machine/Ops leaves in every field. -/

namespace Sys2Proof.Machine

variable (s : State) (k j : Slot) (t : Task) (l m : OutLine)

/-! ### A slot given a record -/

@[simp] theorem State.setTask_pending : (s.setTask k t).pending = s.pending := rfl
@[simp] theorem State.setTask_inReset : (s.setTask k t).inReset = s.inReset := rfl
@[simp] theorem State.setTask_updates : (s.setTask k t).tasks.updates = s.tasks.updates := rfl
@[simp] theorem State.setTask_slots : (s.setTask k t).tasks.slots = s.tasks.slots.set k (some t) := rfl
@[simp] theorem State.setTask_lines : (s.setTask k t).lines = s.lines := rfl
@[simp] theorem State.setTask_timebase : (s.setTask k t).timebase = s.timebase := rfl
@[simp] theorem State.setTask_programs : (s.setTask k t).programs = s.programs := rfl
@[simp] theorem State.setTask_reports : (s.setTask k t).reports = s.reports := rfl
@[simp] theorem State.setTask_events : (s.setTask k t).events = s.events := rfl
@[simp] theorem State.setTask_link : (s.setTask k t).link = s.link := rfl
@[simp] theorem State.task?_setTask_self : (s.setTask k t).task? k = some t := by simp [State.task?]
@[simp] theorem State.task?_setTask_ne (h : j ≠ k) : (s.setTask k t).task? j = s.task? j := by simp [State.task?, h]

/-! ### A slot's update let go -/

@[simp] theorem State.dropUpdate_pending : (s.dropUpdate k).pending = s.pending := rfl
@[simp] theorem State.dropUpdate_inReset : (s.dropUpdate k).inReset = s.inReset := rfl
@[simp] theorem State.dropUpdate_slots : (s.dropUpdate k).tasks.slots = s.tasks.slots := rfl
@[simp] theorem State.dropUpdate_updates : (s.dropUpdate k).tasks.updates = s.tasks.updates.set k none := rfl
@[simp] theorem State.dropUpdate_lines : (s.dropUpdate k).lines = s.lines := rfl
@[simp] theorem State.dropUpdate_timebase : (s.dropUpdate k).timebase = s.timebase := rfl
@[simp] theorem State.dropUpdate_programs : (s.dropUpdate k).programs = s.programs := rfl
@[simp] theorem State.dropUpdate_reports : (s.dropUpdate k).reports = s.reports := rfl
@[simp] theorem State.dropUpdate_events : (s.dropUpdate k).events = s.events := rfl
@[simp] theorem State.dropUpdate_link : (s.dropUpdate k).link = s.link := rfl
@[simp] theorem State.task?_dropUpdate : (s.dropUpdate k).task? j = s.task? j := rfl

/-! ### Output lines -/

variable (f : Output → Output)

@[simp] theorem State.onOutput_pending : (s.onOutput l f).pending = s.pending := rfl
@[simp] theorem State.onOutput_inReset : (s.onOutput l f).inReset = s.inReset := rfl
@[simp] theorem State.onOutput_tasks : (s.onOutput l f).tasks = s.tasks := rfl
@[simp] theorem State.onOutput_inputs : (s.onOutput l f).lines.inputs = s.lines.inputs := rfl
@[simp] theorem State.onOutput_sampled : (s.onOutput l f).lines.sampled = s.lines.sampled := rfl
@[simp] theorem State.onOutput_outputs : (s.onOutput l f).lines.outputs = s.lines.outputs.modify l f := rfl
@[simp] theorem State.onOutput_timebase : (s.onOutput l f).timebase = s.timebase := rfl
@[simp] theorem State.onOutput_programs : (s.onOutput l f).programs = s.programs := rfl
@[simp] theorem State.onOutput_reports : (s.onOutput l f).reports = s.reports := rfl
@[simp] theorem State.onOutput_events : (s.onOutput l f).events = s.events := rfl
@[simp] theorem State.onOutput_link : (s.onOutput l f).link = s.link := rfl
@[simp] theorem State.task?_onOutput : (s.onOutput l f).task? k = s.task? k := rfl

@[simp] theorem State.onOutputs_pending : (s.onOutputs f).pending = s.pending := rfl
@[simp] theorem State.onOutputs_inReset : (s.onOutputs f).inReset = s.inReset := rfl
@[simp] theorem State.onOutputs_tasks : (s.onOutputs f).tasks = s.tasks := rfl
@[simp] theorem State.onOutputs_inputs : (s.onOutputs f).lines.inputs = s.lines.inputs := rfl
@[simp] theorem State.onOutputs_sampled : (s.onOutputs f).lines.sampled = s.lines.sampled := rfl
@[simp] theorem State.onOutputs_outputs : (s.onOutputs f).lines.outputs = s.lines.outputs.map f := rfl
@[simp] theorem State.onOutputs_timebase : (s.onOutputs f).timebase = s.timebase := rfl
@[simp] theorem State.onOutputs_programs : (s.onOutputs f).programs = s.programs := rfl
@[simp] theorem State.onOutputs_reports : (s.onOutputs f).reports = s.reports := rfl
@[simp] theorem State.onOutputs_events : (s.onOutputs f).events = s.events := rfl
@[simp] theorem State.onOutputs_link : (s.onOutputs f).link = s.link := rfl
@[simp] theorem State.task?_onOutputs : (s.onOutputs f).task? k = s.task? k := rfl

/-! ### The interpreter's taking and answering -/

variable (g : Frame) (r : Reply)

@[simp] theorem State.popRequest_pending : s.popRequest.pending = s.pending := rfl
@[simp] theorem State.popRequest_inReset : s.popRequest.inReset = s.inReset := rfl
@[simp] theorem State.popRequest_tasks : s.popRequest.tasks = s.tasks := rfl
@[simp] theorem State.popRequest_lines : s.popRequest.lines = s.lines := rfl
@[simp] theorem State.popRequest_timebase : s.popRequest.timebase = s.timebase := rfl
@[simp] theorem State.popRequest_programs : s.popRequest.programs = s.programs := rfl
@[simp] theorem State.popRequest_reports : s.popRequest.reports = s.reports := rfl
@[simp] theorem State.popRequest_events : s.popRequest.events = s.events := rfl
@[simp] theorem State.task?_popRequest : s.popRequest.task? k = s.task? k := rfl

@[simp] theorem State.respond_pending : (s.respond g r).pending = s.pending := rfl
@[simp] theorem State.respond_inReset : (s.respond g r).inReset = s.inReset := rfl
@[simp] theorem State.respond_tasks : (s.respond g r).tasks = s.tasks := rfl
@[simp] theorem State.respond_lines : (s.respond g r).lines = s.lines := rfl
@[simp] theorem State.respond_timebase : (s.respond g r).timebase = s.timebase := rfl
@[simp] theorem State.respond_programs : (s.respond g r).programs = s.programs := rfl
@[simp] theorem State.respond_reports : (s.respond g r).reports = s.reports := rfl
@[simp] theorem State.respond_events : (s.respond g r).events = s.events := rfl
@[simp] theorem State.task?_respond : (s.respond g r).task? k = s.task? k := rfl

/-! ### A report offered by the device -/

variable (x : Report)

@[simp] theorem State.offerDevice_pending : (s.offerDevice x).pending = s.pending := rfl
@[simp] theorem State.offerDevice_inReset : (s.offerDevice x).inReset = s.inReset := rfl
@[simp] theorem State.offerDevice_tasks : (s.offerDevice x).tasks = s.tasks := rfl
@[simp] theorem State.offerDevice_lines : (s.offerDevice x).lines = s.lines := rfl
@[simp] theorem State.offerDevice_timebase : (s.offerDevice x).timebase = s.timebase := rfl
@[simp] theorem State.offerDevice_programs : (s.offerDevice x).programs = s.programs := rfl
@[simp] theorem State.offerDevice_reports :
    (s.offerDevice x).reports = s.reports.offer .device s.timebase.epoch s.timebase.time x := rfl
@[simp] theorem State.offerDevice_events : (s.offerDevice x).events = s.events := rfl
@[simp] theorem State.offerDevice_link : (s.offerDevice x).link = s.link := rfl

/-! ### An output's forms -/

variable (o : Output) (b : Bool) (e : Time)

@[simp] theorem Output.drive_idle : (o.drive b).idle = o.idle := rfl
@[simp] theorem Output.drive_owner : (o.drive b).owner = o.owner := rfl
@[simp] theorem Output.drive_markEnd : (o.drive b).markEnd = o.markEnd := rfl
@[simp] theorem Output.drive_level : (o.drive b).level = if b then otherLevel o.idle else o.idle := rfl
@[simp] theorem Output.rest_idle : o.rest.idle = o.idle := rfl
@[simp] theorem Output.rest_owner : o.rest.owner = o.owner := rfl
@[simp] theorem Output.rest_level : o.rest.level = o.idle := rfl
@[simp] theorem Output.rest_markEnd : o.rest.markEnd = none := rfl
@[simp] theorem Output.release_idle : o.release.idle = o.idle := rfl
@[simp] theorem Output.release_owner : o.release.owner = .none := rfl
@[simp] theorem Output.release_level : o.release.level = o.idle := rfl
@[simp] theorem Output.release_markEnd : o.release.markEnd = none := rfl
@[simp] theorem Output.pulse_idle : (o.pulse e).idle = o.idle := rfl
@[simp] theorem Output.pulse_owner : (o.pulse e).owner = o.owner := rfl
@[simp] theorem Output.pulse_level : (o.pulse e).level = otherLevel o.idle := rfl
@[simp] theorem Output.pulse_markEnd : (o.pulse e).markEnd = some e := rfl

/-! ### A step of one event -/

variable (w : Work) (u : State → State)

@[simp] theorem Work.on_st : (w.on u).st = u w.st := rfl
@[simp] theorem Work.on_own : (w.on u).own = w.own := rfl
@[simp] theorem Work.on_free : (w.on u).free = w.free := rfl
@[simp] theorem Work.of_st : (Work.of s).st = s := rfl
@[simp] theorem Work.of_own : (Work.of s).own = [] := rfl
@[simp] theorem Work.of_free : (Work.of s).free = [] := rfl
@[simp] theorem Work.offer_st : (w.offer k x).st = w.st := rfl
@[simp] theorem Work.offer_free : (w.offer k x).free = w.free := rfl
@[simp] theorem Work.offer_own :
    (w.offer k x).own = w.own ++ [{ slot := k, reportClass := w.st.classOf k, report := x }] := rfl
@[simp] theorem Work.offerFree_st : (w.offerFree k x).st = w.st := rfl
@[simp] theorem Work.offerFree_own : (w.offerFree k x).own = w.own := rfl
@[simp] theorem Work.offerFree_free :
    (w.offerFree k x).free = w.free ++ [{ slot := k, reportClass := w.st.classOf k, report := x }] := rfl

end Sys2Proof.Machine
end

