-- ==== Sys2Proof/Laws/Reports.lean ====
section
/-! SUPPORT. The laws of the report queue's operations: what each of them does to the entries, the numbering, lost_count and
the session. -/

namespace Sys2Proof.Machine

variable (q : ReportQueue) (source : Source) (epoch : Epoch) (time : Time) (r : Report)

/-- A saturating 16-bit counter is the successor, and 65535 at the top. -/
theorem sat16_eq (n : Nat) : sat16 n = min 65535 (n + 1) := by
  have h : sat16 n = if n < 65535 then n + 1 else 65535 := rfl
  rw [h]
  split <;> omega

theorem sat16_le (n : Nat) : sat16 n ≤ 65535 := by rw [sat16_eq]; omega

@[simp] theorem ReportQueue.append_entries :
    (q.append source epoch time r).entries =
      q.entries ++ [{ seq := q.nextSeq, delivery := .pending, report := r, source := source, epoch := epoch, time := time }] :=
  rfl
@[simp] theorem ReportQueue.append_nextSeq : (q.append source epoch time r).nextSeq = q.nextSeq + 1 := rfl
@[simp] theorem ReportQueue.append_lostCount : (q.append source epoch time r).lostCount = q.lostCount := rfl
@[simp] theorem ReportQueue.append_session : (q.append source epoch time r).session = q.session := rfl

@[simp] theorem ReportQueue.insertGap_lostCount : (q.insertGap epoch time).lostCount = 0 := rfl
@[simp] theorem ReportQueue.insertGap_session : (q.insertGap epoch time).session = q.session := rfl
@[simp] theorem ReportQueue.insertGap_nextSeq : (q.insertGap epoch time).nextSeq = q.nextSeq + 1 := rfl
@[simp] theorem ReportQueue.insertGap_entries :
    (q.insertGap epoch time).entries =
      q.entries ++ [{ seq := q.nextSeq, delivery := .pending, report := .gap q.lostCount true, source := .device, epoch := epoch, time := time }] :=
  rfl

/-- An entry that is no GAP is left as it is; a GAP's count rises and saturates. -/
theorem Entry.raised_gap {e : Entry} {count : Nat} {isOpen : Bool} (h : e.report = .gap count isOpen) :
    e.raised = { e with report := .gap (min 65535 (count + 1)) isOpen } := by
  unfold Entry.raised
  rw [h]
  simp [sat16_eq]

/-- The tail is an open GAP exactly when the last entry is a GAP whose field says so. -/
theorem ReportQueue.tailOpenGap_iff :
    q.tailOpenGap = true ↔ ∃ older e count, q.entries = older ++ [e] ∧ e.report = .gap count true := by
  unfold ReportQueue.tailOpenGap
  rcases List.eq_nil_or_concat q.entries with h | ⟨older, e, h⟩
  · rw [h]
    constructor
    · intro hf; cases hf
    · rintro ⟨older, e, count, h', -⟩
      exact absurd h'.symm (by simp)
  · rw [List.concat_eq_append] at h
    rw [h, List.getLast?_append, List.getLast?_singleton]
    constructor
    · intro hg
      refine ⟨older, e, ?_⟩
      change e.isOpenGap = true at hg
      unfold Entry.isOpenGap at hg
      split at hg
      · rename_i count isOpen hr
        exact ⟨count, rfl, by rw [hr, hg]⟩
      · cases hg
    · rintro ⟨older', e', count, h', hr⟩
      obtain ⟨-, h''⟩ := List.append_inj' h' rfl
      cases h''
      change e.isOpenGap = true
      unfold Entry.isOpenGap
      rw [hr]

theorem ReportQueue.admits_iff : q.admits = true ↔ q.entries.length ≤ 62 := by
  exact decide_eq_true_iff

/-- An offered report is appended where it is admitted, and lost otherwise. -/
theorem ReportQueue.offer_admitted (h : q.entries.length ≤ 62) :
    q.offer source epoch time r = q.append source epoch time r := by
  simp [ReportQueue.offer, (q.admits_iff).2 h]

theorem ReportQueue.offer_refused (h : 63 ≤ q.entries.length) : q.offer source epoch time r = q.lose epoch time := by
  have : q.admits = false := by
    rw [← Bool.not_eq_true, q.admits_iff]
    omega
  simp [ReportQueue.offer, this]

/-- A loss behind a tail that is no open GAP: one more lost, and a GAP inserted where there is room. -/
theorem ReportQueue.lose_counted (h : q.tailOpenGap = false) :
    q.lose epoch time =
      if q.entries.length < 64 then { q with lostCount := min 65535 (q.lostCount + 1) }.insertGap epoch time
      else { q with lostCount := min 65535 (q.lostCount + 1) } := by
  have hp : 0 < min 65535 (q.lostCount + 1) := by omega
  simp only [ReportQueue.lose, h, ReportQueue.countLoss, ReportQueue.flushLost, ReportQueue.occupancy,
    Config.queueEntries, sat16_eq, hp, true_and]
  rfl

/-- No offer changes the session. -/
theorem ReportQueue.lose_session : (q.lose epoch time).session = q.session := by
  unfold ReportQueue.lose
  split
  · split <;> rfl
  · unfold ReportQueue.flushLost
    split <;> rfl

theorem ReportQueue.offer_session : (q.offer source epoch time r).session = q.session := by
  unfold ReportQueue.offer
  split
  · rfl
  · exact q.lose_session epoch time

theorem Entry.isSent_iff (e : Entry) : e.isSent = true ↔ e.delivery = .sent := by
  simp [Entry.isSent]

@[simp] theorem Entry.begun_isSent (e : Entry) : e.begun.isSent = true := rfl
@[simp] theorem Entry.begun_seq (e : Entry) : e.begun.seq = e.seq := rfl
@[simp] theorem Entry.unsent_isSent (e : Entry) : e.unsent.isSent = false := rfl
@[simp] theorem Entry.unsent_seq (e : Entry) : e.unsent.seq = e.seq := rfl

/-- The oldest PENDING entry is the first behind SENT ones; beginning it changes no other entry. -/
theorem beginOldest_eq_some {entries entries' : List Entry} {x : Entry} :
    beginOldest entries = some (x, entries') ↔
      ∃ sent e pending, entries = sent ++ e :: pending ∧ (∀ y ∈ sent, y.isSent = true) ∧ e.isSent = false ∧
        x = e.begun ∧ entries' = sent ++ e.begun :: pending := by
  induction entries generalizing entries' with
  | nil => simp [beginOldest]
  | cons d rest ih =>
    unfold beginOldest
    by_cases hd : d.isSent = true
    · rw [if_pos hd]
      constructor
      · intro h
        cases hb : beginOldest rest with
        | none => rw [hb] at h; cases h
        | some p =>
          rw [hb] at h
          obtain ⟨y, es⟩ := p
          simp only [Option.map_some, Option.some.injEq, Prod.mk.injEq] at h
          obtain ⟨rfl, rfl⟩ := h
          obtain ⟨sent, e, pending, h1, h2, h3, h4, h5⟩ := ih.1 hb
          refine ⟨d :: sent, e, pending, by simp [h1], ?_, h3, h4, by simp [h5]⟩
          intro z hz
          rcases List.mem_cons.1 hz with rfl | hz
          · exact hd
          · exact h2 z hz
      · rintro ⟨sent, e, pending, h1, h2, h3, h4, h5⟩
        cases sent with
        | nil =>
          simp only [List.nil_append, List.cons.injEq] at h1
          rw [h1.1] at hd
          rw [hd] at h3
          cases h3
        | cons c sent =>
          simp only [List.cons_append, List.cons.injEq] at h1
          have := (ih (entries' := sent ++ e.begun :: pending)).2
            ⟨sent, e, pending, h1.2, fun y hy => h2 y (List.mem_cons_of_mem _ hy), h3, h4, rfl⟩
          rw [this, h5, h1.1]
          rfl
    · rw [if_neg hd]
      constructor
      · intro h
        simp only [Option.some.injEq, Prod.mk.injEq] at h
        exact ⟨[], d, rest, rfl, by simp, by simpa using hd, h.1.symm, h.2.symm⟩
      · rintro ⟨sent, e, pending, h1, h2, h3, h4, h5⟩
        cases sent with
        | nil =>
          simp only [List.nil_append, List.cons.injEq] at h1
          obtain ⟨rfl, rfl⟩ := h1
          simp [h4, h5]
        | cons c sent =>
          simp only [List.cons_append, List.cons.injEq] at h1
          exact absurd (h1.1 ▸ h2 c (List.mem_cons_self ..)) hd

end Sys2Proof.Machine
end

