-- ==== Sys2Proof/Laws/Link.lean ====
section
/-! SUPPORT. The laws of the interpreter and the queues of the link: what taking a request, answering it and offering a frame
can do. -/

namespace Sys2Proof.Machine

variable {s : State} {q : Request} {f : Frame} {rest : List Frame}

theorem hasPlace_iff {α : Type} {queue : List α} : hasPlace queue = true ↔ queue.length < 4 := by
  exact decide_eq_true_iff

theorem hasPlace_eq_false_iff {α : Type} {queue : List α} : hasPlace queue = false ↔ 4 ≤ queue.length := by
  rw [← Bool.not_eq_true, hasPlace_iff]
  omega

/-- The next request is the oldest of the queue, and only where the interpreter is free and no hard reset is in progress. -/
theorem nextRequest?_eq_some :
    s.nextRequest? = some f ↔ s.inReset = none ∧ s.link.interpreter = .free ∧ s.link.requests.head? = some f := by
  simp only [State.nextRequest?]
  split <;> rename_i h <;> simp_all

/-- There is a next request of the row `q` exactly where a command of that row takes one. -/
theorem taking_iff : (∃ rest, Taking s q f rest) ↔ s.nextRequest? = some f ∧ f.request = q := by
  constructor
  · rintro ⟨rest, h⟩
    exact ⟨nextRequest?_eq_some.2 ⟨h.outOfReset, h.free, by rw [h.oldest]; rfl⟩, h.row⟩
  · rintro ⟨h, hq⟩
    obtain ⟨h1, h2, h3⟩ := nextRequest?_eq_some.1 h
    cases hr : s.link.requests with
    | nil => rw [hr] at h3; cases h3
    | cons g tail =>
      rw [hr] at h3
      cases h3
      exact ⟨tail, h1, h2, hr, hq⟩

theorem Taking.next (h : Taking s q f rest) : s.nextRequest? = some f := (taking_iff.1 ⟨rest, h⟩).1

/-- Taking the oldest request leaves the rest of the queue and everything else. -/
theorem Taking.pop (h : Taking s q f rest) :
    s.popRequest = { s with link := { s.link with requests := rest } } := by
  simp [State.popRequest, h.oldest]

@[simp] theorem Taking.pop_requests (h : Taking s q f rest) : s.popRequest.link.requests = rest := by rw [h.pop]

@[simp] theorem popRequest_responses : s.popRequest.link.responses = s.link.responses := rfl

/-- A command of a row serves the request it takes, and answers it. -/
theorem takeRequest_taking (h : Taking s q f rest) (serve : Frame → State → State × Reply) :
    takeRequest q serve s = (serve f s.popRequest).1.respond f (serve f s.popRequest).2 := by
  simp [takeRequest, h.next, h.row]

/-- A command of a row leaves the state where it takes no request. -/
theorem takeRequest_not_taking (h : ¬∃ f rest, Taking s q f rest) (serve : Frame → State → State × Reply) :
    takeRequest q serve s = s := by
  unfold takeRequest
  split
  · rfl
  · rename_i g hg
    split
    · rename_i hq
      obtain ⟨rest, ht⟩ := taking_iff.2 ⟨hg, hq⟩
      exact absurd ⟨g, rest, ht⟩ h
    · rfl

/-- The response of the interpreter is the frame the claims call the response to the request. -/
theorem answer_eq_responseTo (r : Reply) : f.answer r false = responseTo f r.status r.data := rfl

/-- Offering the response is answering the request, once the queue holds the rest. -/
theorem respond_eq_answered {e : State} (r : Reply) (h : e.link.requests = rest) :
    e.respond f r = e.answered rest f r.status r.data := by
  subst h
  simp only [State.respond, State.answered, Link.offerResponse, Link.answered, answer_eq_responseTo]
  by_cases hp : e.link.responses.length < 4
  · simp [hasPlace_iff.2 hp, hp]
  · simp [hasPlace_eq_false_iff.2 (Nat.le_of_not_lt hp), hp]

/-- A refused request is answered by its status alone, and changes nothing else. -/
theorem respond_refuse (h : Taking s q f rest) (st : Status) :
    (refuse s.popRequest st).1.respond f (refuse s.popRequest st).2 = s.answered rest f st [] := by
  rw [respond_eq_answered _ (show (refuse s.popRequest st).1.link.requests = rest from h.pop_requests)]
  rw [show (refuse s.popRequest st).1 = s.popRequest from rfl, h.pop]
  rfl

theorem withLen_eq (n : Nat) (serve : State × Reply) :
    withLen n f s serve = if f.payload.length = n then serve else refuse s .badLength := rfl

/-- A BUSY response or a notice is placed, or dropped and counted. -/
theorem offerOrDrop_eq_noticed (l : Link) (r : OutFrame) : l.offerOrDrop r = l.noticed r := by
  simp only [Link.offerOrDrop, Link.noticed, sat16_eq]
  by_cases hp : l.responses.length < 4
  · simp [hasPlace_iff.2 hp, hp]
  · simp [hasPlace_eq_false_iff.2 (Nat.le_of_not_lt hp), hp]

/-- A placed or held response leaves everything of the link but the response queue and the interpreter. -/
theorem offerResponse_frame (l : Link) (r : OutFrame) :
    (l.offerResponse r).requests = l.requests ∧ (l.offerResponse r).receiver = l.receiver ∧
      (l.offerResponse r).transmission = l.transmission ∧ (l.offerResponse r).opened = l.opened ∧
      (l.offerResponse r).lastReset = l.lastReset ∧ (l.offerResponse r).rate = l.rate := by
  unfold Link.offerResponse
  split <;> exact ⟨rfl, rfl, rfl, rfl, rfl, rfl⟩

end Sys2Proof.Machine
end

