-- ==== Sys2Proof/Laws/Time.lean ====
section
/-! SUPPORT. The laws of the instant: when events of it are still to be taken, what a tick boundary does to a record, and what
a sample does to an input. -/

namespace Sys2Proof.Machine

/-- The instant is open while an update, a task clock, an expiry or the end of a MARK pulse is still to be taken. -/
theorem instantOpen_iff {s : State} :
    s.instantOpen = true ↔
      (∃ k, s.tasks.updates.get k ≠ none) ∨
        (∃ k t, s.task? k = some t ∧
          ((t.works = true ∧ t.clockDue = true) ∨ (t.inRun = true ∧ t.engine.expiryDue = true))) ∨
        ∃ l, (s.lines.outputs.get l).markEnd = some s.timebase.time := by
  simp only [State.instantOpen, Bool.or_eq_true, Bank.any_iff, or_assoc]
  refine or_congr ?_ (or_congr ?_ ?_)
  · simp only [Option.isSome_iff_ne_none]
  · refine exists_congr fun k => ?_
    change (match s.task? k with | some t => t.due | none => false) = true ↔ _
    cases s.task? k with
    | none => simp
    | some t => simp [Task.due]
  · simp

/-- A tick boundary leaves a LINE task and a task that does not work; it counts the phase of a working TIMEBASE task. -/
theorem ticked_line {t : Task} {l : InLine} (h : t.common.clock = .line l) : t.ticked = t := by
  simp [Task.ticked, h]

theorem ticked_idle {t : Task} (h : t.works = false) : t.ticked = t := by
  unfold Task.ticked
  split <;> simp [h]

theorem ticked_working {t : Task} {d : Nat} (hc : t.common.clock = .timebase d) (h : t.works = true) :
    t.ticked =
      if d ≤ t.tickPhase + 1 then { t with tickPhase := 0, clockDue := true }
      else { t with tickPhase := t.tickPhase + 1 } := by
  simp [Task.ticked, hc, h]

theorem works_iff {t : Task} : t.works = true ↔ (t.state = .running ∨ t.state = .stopping) ∧ t.held = false := by
  simp [Task.works, Task.inRun]

theorem inRun_iff {t : Task} : t.inRun = true ↔ t.state = .running ∨ t.state = .stopping := by
  simp [Task.inRun]

@[simp] theorem levelOf_condOf (p : Polarity) (l : Level) : p.levelOf (p.condOf l) = l := by
  cases p <;> cases l <;> rfl

@[simp] theorem condOf_levelOf (p : Polarity) (c : Cond) : p.condOf (p.levelOf c) = c := by
  cases p <;> cases c <;> rfl

/-- A sample at the qualified level is no candidate. -/
theorem sample_same {i : Input} {raw : Level} (h : i.polarity.condOf raw = i.cond) :
    i.sample raw = { i with raw := raw, candidate := none } := by
  have : raw = i.polarity.levelOf i.cond := by rw [← h, levelOf_condOf]
  simp [Input.sample, this]

/-- A sample at the other level counts the candidate, and after the filter's samples it is the new level. -/
theorem sample_other {i : Input} {raw : Level} (h : i.polarity.condOf raw ≠ i.cond) :
    i.sample raw =
      if i.filter ≤ i.candidate.getD 0 then { i with raw := raw, cond := i.cond.other, candidate := none }
      else { i with raw := raw, candidate := some (i.candidate.getD 0 + 1) } := by
  have : raw ≠ i.polarity.levelOf i.cond := fun e => h (by rw [e, condOf_levelOf])
  simp [Input.sample, this]

end Sys2Proof.Machine
end

