-- ==== Sys2Proof/Laws/Work.lean ====
section
/-! SUPPORT. The laws of one event at the engines: what an offer, a fault and a run's beginning
do to the state and to the offers that wait for the queue. -/

namespace Sys2Proof.Machine

variable (s : State) (w : Work) (k j : Slot) (now : Time)

/-! ### A slot's record changed -/

theorem State.mapTask_of_some {t : Task} (h : s.task? k = some t) (f : Task → Task) : s.mapTask k f = s.setTask k (f t) := by
  simp [State.mapTask, h]

theorem State.mapTask_of_none (h : s.task? k = none) (f : Task → Task) : s.mapTask k f = s := by
  simp [State.mapTask, h]

/-- A slot given the record it has is left as it is. -/
theorem State.setTask_same {t : Task} (h : s.task? k = some t) : s.setTask k t = s := by
  have : s.tasks.slots.set k (some t) = s.tasks.slots := by
    rw [← h]
    exact Bank.set_get _ _
  unfold State.setTask
  rw [this]

@[simp] theorem State.setTask_setTask (t u : Task) : (s.setTask k t).setTask k u = s.setTask k u := by
  simp [State.setTask]

theorem Work.setEngine_of_some {t : Task} (h : w.st.task? k = some t) (e : Engine) :
    w.setEngine k e = w.on fun s => s.setTask k { t with engine := e } := by
  simp [Work.setEngine, Work.on, State.mapTask, h]

/-! ### Offers of an event -/

theorem State.classOf_of_some {t : Task} (h : s.task? k = some t) : s.classOf k = t.common.reportClass := by
  simp [State.classOf, h]

/-- Slot `k`'s report is offered behind the earlier ones of its event. -/
theorem Work.offer_of_some {t : Task} (h : w.st.task? k = some t) (r : Report) :
    w.offer k r = { w with own := w.own ++ [offerOf k t r] } := by
  simp [Work.offer, State.classOf_of_some _ _ h, offerOf]

/-- Slot `k`'s report is offered without an order. -/
theorem Work.offerFree_of_some {t : Task} (h : w.st.task? k = some t) (r : Report) :
    w.offerFree k r = { w with free := w.free ++ [offerOf k t r] } := by
  simp [Work.offerFree, State.classOf_of_some _ _ h, offerOf]

/-- A start offers its TASK_STARTED, where report_start is set, and changes no state. -/
theorem Work.offerStarted_of_some {t : Task} (h : w.st.task? k = some t) (cause : StartCause) :
    w.offerStarted k cause = { w with free := w.free ++ startOffers k t cause } := by
  cases hr : t.common.reportStart
  · simp [Work.offerStarted, h, hr, startOffers]
  · simp [Work.offerStarted, h, hr, startOffers, w.offerFree_of_some k h]

@[simp] theorem Work.offerStarted_st (cause : StartCause) : (w.offerStarted k cause).st = w.st := by
  unfold Work.offerStarted
  repeat' split
  all_goals rfl

@[simp] theorem Work.offerStarted_own (cause : StartCause) : (w.offerStarted k cause).own = w.own := by
  unfold Work.offerStarted
  repeat' split
  all_goals rfl

/-- Several slots offer their TASK_STARTED in turn. -/
theorem Work.foldl_offerStarted (cause : StartCause) (members : List Slot) :
    members.foldl (fun w j => w.offerStarted j cause) w =
      { w with
        free := w.free ++ members.flatMap fun j => (w.st.task? j).elim [] fun t => startOffers j t cause } := by
  induction members generalizing w with
  | nil => simp
  | cons m rest ih =>
    rw [List.foldl_cons, ih]
    cases h : w.st.task? m with
    | none => simp [Work.offerStarted, h]
    | some t => simp [w.offerStarted_of_some m h cause, h]

@[simp] theorem Work.offerDone_st (before : Task) : (w.offerDone k before).st = w.st := by
  unfold Work.offerDone
  repeat' split
  all_goals rfl

@[simp] theorem Work.offerDone_own (before : Task) : (w.offerDone k before).own = w.own := by
  unfold Work.offerDone
  repeat' split
  all_goals rfl

/-- What an event offered waits for the queue. -/
theorem Work.finish_eq : w.finish now = w.st.offering now w.own w.free := by
  simp only [Work.finish, State.offering, Bool.and_eq_true, List.isEmpty_iff]

/-! ### A fault -/

/-- A fault: the record FAULTED with its reason and its counts kept, the alert released, the slot's outputs at rest. -/
theorem State.fault_eq (t : Task) (reason : FaultReason) :
    s.fault k t reason =
      (s.setTask k
        { t with
          state := .faulted, held := false, clockDue := false, faultReason := some reason
          engine := t.engine.released }).restOutputs k := rfl

/-- A faulting run offers its TASK_FAULT behind its earlier reports. -/
theorem Work.fault_of_some {t : Task} (h : w.st.task? k = some t) (reason : FaultReason) :
    w.fault k reason =
      { w with
        st := w.st.fault k t reason
        own := w.own ++ [offerOf k t (.taskFault reason t.engine.principal)] } := by
  simp [Work.fault, h, faultOffer, offerOf]

/-! ### The beginning of a run -/

/-- Driving a WAVE line leaves everything but the output lines. -/
theorem State.driveWave_frame (e : Engine) :
    (s.driveWave e).pending = s.pending ∧ (s.driveWave e).inReset = s.inReset ∧ (s.driveWave e).tasks = s.tasks ∧
      (s.driveWave e).lines.inputs = s.lines.inputs ∧ (s.driveWave e).lines.sampled = s.lines.sampled ∧
      (s.driveWave e).timebase = s.timebase ∧ (s.driveWave e).programs = s.programs ∧
      (s.driveWave e).reports = s.reports ∧ (s.driveWave e).events = s.events ∧ (s.driveWave e).link = s.link := by
  unfold State.driveWave
  split
  · split <;> exact ⟨rfl, rfl, rfl, rfl, rfl, rfl, rfl, rfl, rfl, rfl⟩
  all_goals exact ⟨rfl, rfl, rfl, rfl, rfl, rfl, rfl, rfl, rfl, rfl⟩

@[simp] theorem State.task?_driveWave (e : Engine) : (s.driveWave e).task? j = s.task? j := by
  simp only [State.task?, (s.driveWave_frame e).2.2.1]

/-- Driving a WAVE line to a segment's level, line by line. -/
theorem State.driveWave_outputs (p : TrainParams) (x : TrainRun) {g : Segment}
    (h : (s.segments p.program)[x.index]? = some g) (l : OutLine) :
    (s.driveWave (.pulseTrain p x)).lines.outputs.get l =
      if l = p.wave then (s.lines.outputs.get l).drive (g.level == .active) else s.lines.outputs.get l := by
  simp only [State.driveWave, h, State.onOutput_outputs]
  by_cases hl : l = p.wave
  · subst hl; simp
  · simp [hl]

/-- A run begins: the slot's record takes the form of a start, and no other slot changes. -/
theorem State.beginRun_task?_self {t : Task} (h : s.task? k = some t) (level : InLine → Cond) :
    (s.beginRun k level now).task? k = some (t.begun s.segments level now) := by
  simp [State.beginRun, h]

theorem State.beginRun_task?_ne (h : j ≠ k) (level : InLine → Cond) :
    (s.beginRun k level now).task? j = s.task? j := by
  unfold State.beginRun
  split
  · simp [h]
  · rfl

/-- A run's beginning touches the slots and the output lines alone. -/
theorem State.beginRun_frame (level : InLine → Cond) :
    (s.beginRun k level now).pending = s.pending ∧ (s.beginRun k level now).inReset = s.inReset ∧
      (s.beginRun k level now).tasks.updates = s.tasks.updates ∧
      (s.beginRun k level now).lines.inputs = s.lines.inputs ∧
      (s.beginRun k level now).lines.sampled = s.lines.sampled ∧ (s.beginRun k level now).timebase = s.timebase ∧
      (s.beginRun k level now).programs = s.programs ∧ (s.beginRun k level now).reports = s.reports ∧
      (s.beginRun k level now).events = s.events ∧ (s.beginRun k level now).link = s.link := by
  unfold State.beginRun
  cases s.task? k with
  | none => exact ⟨rfl, rfl, rfl, rfl, rfl, rfl, rfl, rfl, rfl, rfl⟩
  | some t =>
    obtain ⟨h1, h2, h3, h4, h5, h6, h7, h8, h9, h10⟩ :=
      (s.setTask k (t.begun s.segments level now)).driveWave_frame (t.begun s.segments level now).engine
    have h3' := congrArg TaskTable.updates h3
    exact ⟨h1, h2, h3', h4, h5, h6, h7, h8, h9, h10⟩

/-- The form at a start is the form the claims call so. -/
theorem Engine.fresh_startsAs (segments : Prog → List Segment) (level : InLine → Cond) (e : Engine) :
    e.StartsAs segments level (e.fresh segments level) := by
  cases e with
  | pulseTrain p x =>
    refine ⟨rfl, ?_, ?_, ?_⟩ <;> simp only [TrainRun.atSegment]
    · split <;> rfl
    · split <;> rfl
    · intro g hg
      rw [hg]
      exact ⟨rfl, rfl⟩
  | eventCount p c => exact ⟨rfl, rfl⟩
  | span p x => exact ⟨rfl, rfl⟩
  | windowCount p x =>
    refine ⟨rfl, ?_, ?_, ?_⟩ <;> simp only [WindowParams.fresh]
    · split <;> rfl
    · split <;> rfl
    · cases h : p.source <;> simp
  | position p x => exact ⟨rfl, rfl⟩
  | deadline p x => exact ⟨rfl, rfl⟩

/-- Several slots begin a run in one event: each of them takes the form of a start, and no other slot changes. -/
theorem foldl_beginRun_task? (members : List Slot) (h : members.Nodup) :
    (members.foldl (fun s j => s.beginRun j s.levelNow now) s).task? j =
      if j ∈ members then (s.task? j).map fun t => t.begun s.segments s.levelNow now else s.task? j := by
  induction members generalizing s with
  | nil => simp
  | cons m rest ih =>
    obtain ⟨hm, hr⟩ := List.nodup_cons.1 h
    have hframe := s.beginRun_frame m now s.levelNow
    have hlevel : (s.beginRun m s.levelNow now).levelNow = s.levelNow := by
      funext l
      simp only [State.levelNow, hframe.2.2.2.1]
    have hsegments : (s.beginRun m s.levelNow now).segments = s.segments := by
      funext p
      simp only [State.segments, hframe.2.2.2.2.2.2.1]
    rw [List.foldl_cons, ih _ hr, hlevel, hsegments]
    by_cases hj : j = m
    · subst hj
      rw [if_neg hm, if_pos (List.mem_cons_self ..)]
      cases ht : s.task? j with
      | none => simp [State.beginRun, ht]
      | some t => rw [s.beginRun_task?_self j now ht]; rfl
    · rw [s.beginRun_task?_ne m j now hj]
      simp [hj]

/-- Several slots begin a run in one event: nothing but the slots and the output lines changes. -/
theorem foldl_beginRun_frame (members : List Slot) :
    let t := members.foldl (fun s j => s.beginRun j s.levelNow now) s
    t.pending = s.pending ∧ t.inReset = s.inReset ∧ t.tasks.updates = s.tasks.updates ∧
      t.lines.inputs = s.lines.inputs ∧ t.lines.sampled = s.lines.sampled ∧ t.timebase = s.timebase ∧
      t.programs = s.programs ∧ t.reports = s.reports ∧ t.events = s.events ∧ t.link = s.link := by
  induction members generalizing s with
  | nil => exact ⟨rfl, rfl, rfl, rfl, rfl, rfl, rfl, rfl, rfl, rfl⟩
  | cons m rest ih =>
    obtain ⟨a1, a2, a3, a4, a5, a6, a7, a8, a9, a10⟩ := ih (s.beginRun m s.levelNow now)
    obtain ⟨b1, b2, b3, b4, b5, b6, b7, b8, b9, b10⟩ := s.beginRun_frame m now s.levelNow
    exact ⟨a1.trans b1, a2.trans b2, a3.trans b3, a4.trans b4, a5.trans b5, a6.trans b6, a7.trans b7, a8.trans b8,
      a9.trans b9, a10.trans b10⟩

/-! ### Who follows a completion -/

theorem mem_dependents : j ∈ s.dependents k ↔
    ∃ t, s.task? j = some t ∧ t.state = .armed ∧ t.common.start = .after k := by
  simp only [State.dependents, List.mem_filter, mem_indices, true_and]
  cases h : s.task? j with
  | none => simp
  | some t => simp [Task.awaitsCompletionOf]

theorem dependents_nodup : (s.dependents k).Nodup := (indices_nodup 16).filter _

end Sys2Proof.Machine
end

