-- ==== Sys2Proof/Laws/Turns.lean ====
section
/-! SUPPORT. The laws of the queue's turns: what taking an offer, ending an event, a turn and settling the open events can do,
and what they leave. -/

namespace Sys2Proof.Machine

variable (s : State) (e : OpenEvent) (o : Offer) (k j : Slot) (offers : List Offer)

/-- What no turn of the queue changes: the other blocks, the link, and the updates not yet taken. -/
structure OutsideTurns (s t : State) : Prop where
  blocks : OtherBlocksKept s t
  link : t.link = s.link
  updates : t.tasks.updates = s.tasks.updates

theorem OutsideTurns.refl : OutsideTurns s s := ⟨⟨rfl, rfl, rfl, rfl, rfl, rfl⟩, rfl, rfl⟩

theorem OutsideTurns.trans {s t u : State} (h : OutsideTurns s t) (g : OutsideTurns t u) : OutsideTurns s u :=
  ⟨⟨g.blocks.pending.trans h.blocks.pending, g.blocks.inReset.trans h.blocks.inReset,
      g.blocks.inputs.trans h.blocks.inputs, g.blocks.sampled.trans h.blocks.sampled,
      g.blocks.timebase.trans h.blocks.timebase, g.blocks.programs.trans h.blocks.programs⟩,
    g.link.trans h.link, g.updates.trans h.updates⟩

/-! ### Taking an offer -/

theorem Offer.faultsIfLost_iff :
    o.faultsIfLost = true ↔ o.reportClass = .critical ∧ ∀ reason value, o.report ≠ .taskFault reason value := by
  cases h : o.report <;> simp [Offer.faultsIfLost, Report.isTaskFault, h]

@[simp] theorem takeOffer_reports (x : State × OpenEvent) :
    (takeOffer x o).1.reports = x.1.reports.offer (.slot o.slot) x.2.epoch x.2.time o.report := rfl

/-- The queue takes an offer: nothing but the report queue changes in the state. -/
theorem takeOffer_state (x : State × OpenEvent) :
    (takeOffer x o).1 = { x.1 with reports := x.1.reports.offer (.slot o.slot) x.2.epoch x.2.time o.report } := rfl

/-- Its slot is noted exactly where the queue refuses the report and the loss faults the task. -/
theorem takeOffer_lost (x : State × OpenEvent) :
    (takeOffer x o).2 =
      if 63 ≤ x.1.reports.entries.length ∧ o.faultsIfLost = true then { x.2 with lost := x.2.lost ++ [o.slot] }
      else x.2 := by
  have h : (!x.1.reports.admits) = true ↔ 63 ≤ x.1.reports.entries.length := by
    rw [Bool.not_eq_true', ← Bool.not_eq_true, x.1.reports.admits_iff]
    omega
  simp only [takeOffer, Bool.and_eq_true, h]

@[simp] theorem takeOffer_epoch (x : State × OpenEvent) : (takeOffer x o).2.epoch = x.2.epoch := by
  rw [takeOffer_lost]
  split <;> rfl

@[simp] theorem takeOffer_time (x : State × OpenEvent) : (takeOffer x o).2.time = x.2.time := by
  rw [takeOffer_lost]
  split <;> rfl

/-- Several offers taken in turn: the report queue takes each, and nothing else of the state changes. -/
theorem foldl_takeOffer_state (x : State × OpenEvent) :
    (offers.foldl takeOffer x).1 = { x.1 with reports := offered x.1.reports x.2.epoch x.2.time offers } := by
  induction offers generalizing x with
  | nil => rfl
  | cons o rest ih =>
    rw [List.foldl_cons, ih, takeOffer_epoch, takeOffer_time]
    rfl

/-! ### The faults at an event's end -/

/-- A noted slot that holds no task, or a FAULTED one, is left. -/
theorem faultLost_left (x : State × List Offer) (h : ∀ t, x.1.task? k = some t → t.state = .faulted) :
    faultLost x k = x := by
  unfold faultLost
  split
  · rename_i t ht
    rw [if_pos (h t ht)]
  · rfl

/-- Any other noted task faults with REPORT_LOST and offers its TASK_FAULT. -/
theorem faultLost_faults (x : State × List Offer) {t : Task} (h : x.1.task? k = some t) (hf : t.state ≠ .faulted) :
    faultLost x k =
      (x.1.fault k t .reportLost, x.2 ++ [offerOf k t (.taskFault .reportLost t.engine.principal)]) := by
  simp [faultLost, h, hf, faultOffer, offerOf]

/-- A fault changes no other slot. -/
theorem State.fault_task?_ne (h : j ≠ k) (t : Task) (reason : FaultReason) :
    (s.fault k t reason).task? j = s.task? j := by
  simp [State.fault_eq, State.restOutputs, h]

/-- A fault puts the slot's own outputs at rest, and no other. -/
theorem State.fault_outputs (t : Task) (reason : FaultReason) (l : OutLine) :
    (s.fault k t reason).lines.outputs.get l =
      if (s.lines.outputs.get l).ownedBy k then (s.lines.outputs.get l).rest else s.lines.outputs.get l := by
  simp [State.fault_eq, State.restOutputs]

theorem State.fault_outside (t : Task) (reason : FaultReason) : OutsideTurns s (s.fault k t reason) :=
  ⟨⟨rfl, rfl, rfl, rfl, rfl, rfl⟩, rfl, rfl⟩

theorem faultLost_outside (x : State × List Offer) :
    OutsideTurns x.1 (faultLost x k).1 ∧ (faultLost x k).1.reports = x.1.reports ∧
      (faultLost x k).1.events = x.1.events := by
  unfold faultLost
  split
  · split
    · exact ⟨.refl _, rfl, rfl⟩
    · exact ⟨x.1.fault_outside k _ _, rfl, rfl⟩
  · exact ⟨.refl _, rfl, rfl⟩

/-- The faults of an event touch the slots and the output lines alone. -/
theorem foldl_faultLost_outside (slots : List Slot) (x : State × List Offer) :
    OutsideTurns x.1 (slots.foldl faultLost x).1 ∧ (slots.foldl faultLost x).1.reports = x.1.reports ∧
      (slots.foldl faultLost x).1.events = x.1.events := by
  induction slots generalizing x with
  | nil => exact ⟨.refl _, rfl, rfl⟩
  | cons m rest ih =>
    obtain ⟨h1, h2, h3⟩ := faultLost_outside m x
    obtain ⟨g1, g2, g3⟩ := ih (faultLost x m)
    exact ⟨h1.trans g1, g2.trans h2, g3.trans h3⟩

/-! ### Settling -/

/-- An event brought to its end: the slots, the output lines and the report queue alone may change. -/
theorem State.settleEvent_outside : OutsideTurns s (s.settleEvent e) ∧ (s.settleEvent e).events = s.events := by
  unfold State.settleEvent State.faultAll
  simp only [foldl_takeOffer_state]
  obtain ⟨h1, -, h3⟩ := foldl_faultLost_outside (e.offers.foldl takeOffer (s, e)).2.lost
    ({ s with reports := offered s.reports e.epoch e.time e.offers }, [])
  exact ⟨⟨⟨h1.blocks.pending, h1.blocks.inReset, h1.blocks.inputs, h1.blocks.sampled, h1.blocks.timebase,
    h1.blocks.programs⟩, h1.link, h1.updates⟩, h3⟩

theorem foldl_settleEvent_outside (events : List OpenEvent) :
    OutsideTurns s (events.foldl State.settleEvent s) ∧ (events.foldl State.settleEvent s).events = s.events := by
  induction events generalizing s with
  | nil => exact ⟨.refl s, rfl⟩
  | cons e rest ih =>
    obtain ⟨h1, h2⟩ := s.settleEvent_outside e
    obtain ⟨g1, g2⟩ := ih (s.settleEvent e)
    exact ⟨h1.trans g1, g2.trans h2⟩

/-- Settled, no event is open. -/
theorem State.settle_events : s.settle.events = [] :=
  (foldl_settleEvent_outside { s with events := [] } s.events).2

theorem State.settle_outside : OutsideTurns s s.settle :=
  have h := (foldl_settleEvent_outside { s with events := [] } s.events).1
  ⟨⟨h.blocks.pending, h.blocks.inReset, h.blocks.inputs, h.blocks.sampled, h.blocks.timebase, h.blocks.programs⟩,
    h.link, h.updates⟩

/-- An open event may still fault the task of slot `j`: it is noted there, or an offer of it waits whose loss would fault it. -/
theorem State.undecided_iff :
    s.undecided j = true ↔ ∃ e ∈ s.events, j ∈ e.lost ∨ ∃ o ∈ e.offers, o.slot = j ∧ o.faultsIfLost = true := by
  simp [State.undecided]

/-- A state ready for some slots is the state itself where none of them may still fault, and the settled one otherwise. -/
theorem State.readyFor_eq (slots : List Slot) :
    (s.readyFor slots = s ∧ ∀ k ∈ slots, s.undecided k = false) ∨
      (s.readyFor slots = s.settle ∧ ∃ k ∈ slots, s.undecided k = true) := by
  unfold State.readyFor
  by_cases h : slots.any s.undecided = true
  · exact .inr ⟨if_pos h, by simpa using h⟩
  · refine .inl ⟨if_neg h, fun k hk => ?_⟩
    rw [← Bool.not_eq_true]
    exact fun hu => h (List.any_eq_true.2 ⟨k, hk, hu⟩)

theorem State.readyFor_outside (slots : List Slot) : OutsideTurns s (s.readyFor slots) := by
  rcases s.readyFor_eq slots with ⟨h, -⟩ | ⟨h, -⟩ <;> rw [h]
  · exact .refl s
  · exact s.settle_outside

/-- Slot `j` is not done with an event while an offer of it waits there or it is noted. -/
theorem OpenEvent.concerns_iff : e.concerns j = true ↔ j ∈ e.lost ∨ ∃ o ∈ e.offers, o.slot = j := by
  simp [OpenEvent.concerns, OpenEvent.holds, or_comm]

theorem State.unfinished_iff : s.unfinished j = true ↔ ∃ e ∈ s.events, j ∈ e.lost ∨ ∃ o ∈ e.offers, o.slot = j := by
  simp [State.unfinished, OpenEvent.concerns_iff]

/-- What may still fault slot `j` is not over. -/
theorem State.unfinished_of_undecided (h : s.undecided j = true) : s.unfinished j = true := by
  obtain ⟨e, he, h⟩ := s.undecided_iff j |>.1 h
  exact (s.unfinished_iff j).2 ⟨e, he, h.imp id fun ⟨o, ho, hj, _⟩ => ⟨o, ho, hj⟩⟩

/-- A state clear for some slots is the state itself where none of them has an event open, and the settled one otherwise. -/
theorem State.clearFor_eq (slots : List Slot) :
    (s.clearFor slots = s ∧ ∀ k ∈ slots, s.unfinished k = false) ∨
      (s.clearFor slots = s.settle ∧ ∃ k ∈ slots, s.unfinished k = true) := by
  unfold State.clearFor
  by_cases h : slots.any s.unfinished = true
  · exact .inr ⟨if_pos h, by simpa using h⟩
  · refine .inl ⟨if_neg h, fun k hk => ?_⟩
    rw [← Bool.not_eq_true]
    exact fun hu => h (List.any_eq_true.2 ⟨k, hk, hu⟩)

theorem State.clearFor_outside (slots : List Slot) : OutsideTurns s (s.clearFor slots) := by
  rcases s.clearFor_eq slots with ⟨h, -⟩ | ⟨h, -⟩ <;> rw [h]
  · exact .refl s
  · exact s.settle_outside

/-- The events that concern some slots brought to their end: the others stay open, and no other block changes. -/
theorem State.endEventsOf_outside (slots : List Slot) :
    OutsideTurns s (s.endEventsOf slots) ∧
      (s.endEventsOf slots).events = s.events.filter fun e => !slots.any e.concerns := by
  obtain ⟨h, g⟩ := foldl_settleEvent_outside { s with events := s.events.filter fun e => !slots.any e.concerns }
    (s.events.filter fun e => slots.any e.concerns)
  exact ⟨⟨⟨h.blocks.pending, h.blocks.inReset, h.blocks.inputs, h.blocks.sampled, h.blocks.timebase,
    h.blocks.programs⟩, h.link, h.updates⟩, g⟩

/-- Where no open event concerns the slots, nothing is brought to its end. -/
theorem State.endEventsOf_none (slots : List Slot) (h : ∀ e ∈ s.events, slots.any e.concerns = false) :
    s.endEventsOf slots = s := by
  have h1 : (s.events.filter fun e => slots.any e.concerns) = [] :=
    List.filter_eq_nil_iff.2 fun e he => by simp [h e he]
  have h2 : (s.events.filter fun e => !slots.any e.concerns) = s.events :=
    List.filter_eq_self.2 fun e he => by simp [h e he]
  unfold State.endEventsOf
  rw [h1, h2]
  rfl

/-- No event of a slot that a request makes report is open after the request (R144, R183). -/
theorem State.requestEvent_finished (slots : List Slot) (event : State → State) (h : k ∈ slots) :
    (s.requestEvent slots event).unfinished k = false := by
  unfold State.requestEvent State.unfinished
  rw [((event (s.clearFor slots)).endEventsOf_outside slots).2, List.any_eq_false]
  intro e he
  have := (List.mem_filter.1 he).2
  simp only [Bool.not_eq_true', List.any_eq_false] at this
  exact this k h

/-! ### Turns -/

theorem OpenEvent.holds_iff : e.holds j = true ↔ ∃ o ∈ e.offers, o.slot = j := by
  simp [OpenEvent.holds]

/-- The event a turn of slot `j` looks at is the oldest that holds an offer of `j`. -/
theorem span_holds {before after : List OpenEvent} (hb : ∀ x ∈ before, x.holds j = false) (he : e.holds j = true) :
    ((before ++ e :: after).span fun x => !x.holds j) = (before, e :: after) := by
  have h : ∀ x ∈ before, (fun x : OpenEvent => !x.holds j) x = true := fun x hx => by simp [hb x hx]
  rw [List.span_eq_takeWhile_dropWhile, List.takeWhile_append_of_pos h, List.dropWhile_append_of_pos h]
  simp [he]

/-- A turn touches the slots, the output lines, the report queue and the open events alone. -/
theorem State.takeTurn_outside : OutsideTurns s (s.takeTurn j) := by
  unfold State.takeTurn
  split
  · exact .refl s
  · split
    · exact .refl s
    · rename_i o e' _
      dsimp only
      split
      · obtain ⟨h, -, -⟩ := foldl_faultLost_outside (takeOffer (s, e') o).2.lost ((takeOffer (s, e') o).1, [])
        exact ⟨⟨h.blocks.pending, h.blocks.inReset, h.blocks.inputs, h.blocks.sampled, h.blocks.timebase,
          h.blocks.programs⟩, h.link, h.updates⟩
      · exact ⟨⟨rfl, rfl, rfl, rfl, rfl, rfl⟩, rfl, rfl⟩

/-- So do the turns at the end of an event. -/
theorem State.takeTurns_outside (turns : Turns) : OutsideTurns s (s.takeTurns turns) := by
  have h : ∀ (order : List Slot) (u : State), OutsideTurns u (order.foldl State.takeTurn u) := by
    intro order
    induction order with
    | nil => exact fun u => .refl u
    | cons m rest ih => exact fun u => (u.takeTurn_outside m).trans (ih _)
  unfold State.takeTurns
  split
  · exact h turns.order s
  · exact (h turns.order s).trans (State.settle_outside _)

end Sys2Proof.Machine
end

