-- ==== Sys2Proof/Tests/Slice0.lean ====
section
/-! SUPPORT. Tests of one step each, with the expected value taken from the manual's tables and worked examples (the
source stands in each comment), and for every obligation with hypotheses a named witness that they can be met. -/

set_option Elab.async false

namespace Sys2Proof.Tests

open Machine

/-! ### Small states -/

/-- The state a command leaves. -/
def after (c : Instr) (s : State) : State :=
  match exec c s with
  | .next t => t
  | .fault _ => s
  | .refused _ => s

/-- No turn of the queue named, and what is left taken at once. -/
def atOnce : Turns := { order := [], leave := false }

/-- These turns of the queue, and what is left waiting. -/
def leaving (order : List Slot) : Turns := { order := order, leave := true }

/-- A request frame. -/
def frame (type : Byte) (payload : List Byte) : Frame := { type := type, tag := 0x07, payload := payload }

/-- A state whose request queue holds one frame. -/
def asking (s : State) (type : Byte) (payload : List Byte) : State :=
  { s with link := { s.link with requests := [frame type payload] } }

/-- A free interpreter out of reset takes the one request it is asked. -/
theorem taking_asking {s : State} {type : Byte} {payload : List Byte} {q : Request} (h1 : s.inReset = none)
    (h2 : s.link.interpreter = .free) (h3 : requestOf type payload = q) :
    Taking (asking s type payload) q (frame type payload) [] := ⟨h1, h2, rfl, h3⟩

/-- The payload of the newest response. -/
def answer (s : State) : List Byte := s.link.responses.getLast?.elim [] OutFrame.payload

/-- The part after reset and its first sample instant. -/
def ready : State := { State.reset with lines := { State.reset.lines with sampled := true } }

/-- The common fields of a plain task: TIMEBASE divider 1, start HOST, repeat ONCE, NORMAL. -/
def plain : Common :=
  { clock := .timebase 1, trigger := none, start := .host, gate := none, repeats := .once, policy := .ignore
    reportClass := .normal, reportStart := false, mark := none }

/-- P0 sealed with a segment of 2 clocks ACTIVE, flagged, and one of 1 clock IDLE. -/
def stored : State :=
  { ready with
    programs := ready.programs.set 0
      { state := .sealed, refCount := 0
        segments :=
          [{ level := .active, duration := 2, reportEnd := true, wait := false },
           { level := .inactive, duration := 1, reportEnd := false, wait := false }] } }

/-- The task of slot T0, in a state with an engine. -/
def inState (c : Common) (kind : KindParams) (st : TaskState) (e : Engine) : State :=
  (stored.define 0 c kind).mapTask 0 fun t => { t with state := st, engine := e }

/-- A slot's update of some changes, at time 5; the levels after it are the changes'. -/
def withUpdate (s : State) (changes : List (InLine × Cond)) : State :=
  { s with
    tasks :=
      { s.tasks with updates := s.tasks.updates.set 0 (some { changes := changes, levels := changes, time := 5 }) } }

/-- A task clock due at slot T0. -/
def withClock (s : State) : State := s.mapTask 0 fun t => { t with clockDue := true }

/-- A report queue of `n` entries of one kind from seq 0 on, the first `sent` of them SENT. -/
def filled (n sent : Nat) (session : Option Nat) : ReportQueue :=
  { entries := (List.range n).map fun i =>
      { seq := BitVec.ofNat 16 i, delivery := if i < sent then .sent else .pending, report := .trainEnd 1
        source := .slot 0, epoch := 0, time := 0 }
    nextSeq := BitVec.ofNat 16 n
    lostCount := 0
    session := session }

/-- A state with that queue. -/
def queued (s : State) (q : ReportQueue) : State := { s with reports := q }

/-- The whole record of T0. -/
def record (s : State) : Option Task := s.task? 0

/-! ### Soundness by checking -/

def allInRoles : List InRole := [.clock, .trigger, .gate, .signal, .window, .phaseA, .phaseB, .index, .kick]
def allOutRoles : List OutRole := [.wave, .mark, .alert]

theorem mem_allInRoles (r : InRole) : r ∈ allInRoles := by cases r <;> decide
theorem mem_allOutRoles (r : OutRole) : r ∈ allOutRoles := by cases r <;> decide

/-- The claims and the owners agree with the records, checked place by place. -/
def ownershipOk (s : State) : Bool :=
  ((indices 12).all fun l =>
    (decide ((s.lines.inputs.get l).claims.length ≤ 4) &&
      decide ((s.lines.inputs.get l).claims.Pairwise fun c d => claimRank c < claimRank d)) &&
    (indices 16).all fun k => allInRoles.all fun r =>
      (s.lines.inputs.get l).claims.contains (k, r) ==
        (s.task? k).any fun t => (claimsOf t.common t.engine.params).contains (l, r)) &&
  (indices 8).all fun l => (indices 16).all fun k => allOutRoles.all fun r =>
    decide ((s.lines.outputs.get l).owner = .task k r) ==
      (s.task? k).any fun t => (outputsOf t.common t.engine.params).contains (l, r)

theorem ownershipSound_of_ok {s : State} (h : ownershipOk s = true) : s.OwnershipSound := by
  simp only [ownershipOk, Bool.and_eq_true, List.all_eq_true, mem_indices, mem_allInRoles, mem_allOutRoles,
    forall_const, decide_eq_true_eq, beq_iff_eq] at h
  refine ⟨fun l k r => ?_, fun l => (h.1 l).1.1, fun l => (h.1 l).1.2, fun l k r => ?_⟩
  · rw [← List.contains_iff_mem, (h.1 l).2 k r, Option.any_eq_true]
    simp only [List.contains_iff_mem]
  · rw [← decide_eq_true_iff (p := (s.lines.outputs.get l).owner = .task k r), h.2 l k r, Option.any_eq_true]
    simp only [List.contains_iff_mem]

/-- The report queue is sound, checked entry by entry. -/
def queueOk (q : ReportQueue) : Bool :=
  decide (q.entries.length ≤ 64) && decide ((q.entries.filter fun e => !e.isGap).length ≤ 63) &&
  decide (q.entries.map Entry.seq =
    (List.range q.entries.length).map fun i => q.nextSeq - BitVec.ofNat 16 (q.entries.length - i)) &&
  decide (q.entries.length = 64 → (q.entries.getLast?.map Entry.isGap) = some true) &&
  decide (0 < q.lostCount → q.entries.length = 64 ∧ q.tailOpenGap = false) && decide (q.lostCount ≤ 65535) &&
  (q.entries.all fun e =>
    (match e.report with
     | .gap count _ => decide (1 ≤ count ∧ count ≤ 65535)
     | _ => true) && (!e.isOpenGap || e.delivery == .pending)) &&
  ((q.entries.dropWhile Entry.isSent).all fun e => e.delivery == .pending) &&
  (match q.session with
   | none => q.entries.all fun e => e.delivery == .pending
   | some w => decide (1 ≤ w ∧ w ≤ 32 ∧ q.sentCount ≤ w))

theorem queueSound_of_ok {q : ReportQueue} (h : queueOk q = true) : q.Sound := by
  simp only [queueOk, Bool.and_eq_true, decide_eq_true_eq, List.all_eq_true] at h
  obtain ⟨⟨⟨⟨⟨⟨⟨⟨h1, h2⟩, h3⟩, h4⟩, h5⟩, h6⟩, h7⟩, h8⟩, h9⟩ := h
  refine ⟨h1, h2, h3, h4, h5, h6, ?_, ?_, ?_, ?_, ?_⟩
  · intro e he count isOpen hr
    have := (h7 e he).1
    rw [hr] at this
    simpa using this
  · intro e he ho
    have := (h7 e he).2
    simpa [ho] using this
  · refine ⟨q.entries.takeWhile Entry.isSent, q.entries.dropWhile Entry.isSent, List.takeWhile_append_dropWhile.symm, ?_, ?_⟩
    · intro e he
      simpa [Entry.isSent] using List.mem_takeWhile_imp he
    · intro e he
      simpa using h8 e he
  · intro hs e he
    rw [hs] at h9
    simp only [List.all_eq_true, beq_iff_eq] at h9
    exact h9 e he
  · intro w hs
    rw [hs] at h9
    simpa using h9

/-! ### Well-formed commands -/

/-- The types hold every operand in its range, and an order of turns may name a slot as often as it has offers (log 7), so
there is no check and no ill-formed command. -/
theorem test_every_command_is_well_formed :
    (Instr.startGroup { order := [1, 2, 1], leave := true }).wellFormed = true ∧
      (Instr.rxByte 0xFF).wellFormed = true ∧ (Instr.deadlineExpiry 15 atOnce).wellFormed = true := by decide

/-! ### The step -/

theorem test_step_takes_the_front : step { ready with pending := [.tickBoundary, .getTime] } =
    exec .tickBoundary { ready with pending := [.getTime] } := rfl

/-- The table gives no row bits. -/
theorem test_no_word_spells_a_command : decodeTableWord 8 0 = none := by decide

/-! ### The link's codes -/

/-- R175: the CRC of 31h to 39h is 29B1h. -/
theorem test_crc_check_value : crcOf [0x31, 0x32, 0x33, 0x34, 0x35, 0x36, 0x37, 0x38, 0x39] = 0x29B1 := by
  decide +kernel

/-- Chapter 11, a report frame by example: TASK_DONE of T5, seq 1234, epoch 2, time 1,000,500. -/
theorem test_report_record_by_example :
    Entry.record
      { seq := 1234, delivery := .pending, report := .taskDone .stopped 0 4 1, source := .slot 5, epoch := 2
        time := 1000500 } =
      [0x04, 0xD2, 0x11, 0x05, 0x02, 0x00, 0x00, 0x00, 0x0F, 0x44, 0x34, 0x02, 0x00, 0x00, 0x00, 0x00, 0x00, 0x04,
        0x00, 0x01] := by decide +kernel

/-- R195: LEN counts the payload, and SYNC stands first. -/
theorem test_frame_header : (frameBytes 0x80 0x00 [0x11, 0x22]).take 6 = [0x5A, 0x02, 0x80, 0x00, 0x11, 0x22] := by
  decide +kernel

/-- R197: the kind block of a SPAN task, PERIOD on IN4, of T3 with a LINE clock on IN1. -/
theorem test_record_read :
    recordOf? 3
      [3, 0x03, 0x01, 1, 0, 0, 0, 0xFF, 0, 0, 0, 0xFF, 0, 0x01, 0x02, 0x01, 1, 0xFF, 0, 0, 4, 0x01] =
      some
        ({ plain with clock := .line 1, repeats := .rearm, policy := .fault, reportClass := .critical,
                      reportStart := true },
          .span { signal := 4, mode := .period }) := by decide +kernel

/-- R5, R86: a clock line that is the SIGNAL line is refused. -/
theorem test_record_clock_on_signal_refused :
    recordOf? 3 [3, 0x03, 0x01, 4, 0, 0, 0, 0xFF, 0, 0, 0, 0xFF, 0, 0, 0, 0, 0, 0xFF, 0, 0, 4, 0x01] = none := by
  decide +kernel

/-! ### The requests of the link, of resets and of sessions -/

theorem test_getIdentity :
    answer (after .getIdentity (asking ready 0x01 [])) =
      [0x00, 0x7D, 0x31, 0x12, 0x08, 0x01, 16, 12, 8, 8, 0x01, 0x00, 64, 0x00, 0x01] := by decide +kernel

theorem test_getLinkStatus_clears :
    let s := after .getLinkStatus
      (asking { ready with link := { ready.link with crcErrors := 3, droppedFrames := 258 } } 0x02 [0x01])
    answer s = [0x00, 0, 3, 0, 0, 0, 0, 1, 2, 0, 0, 0, 0] ∧ s.link.crcErrors = 0 ∧ s.link.droppedFrames = 0 := by
  decide +kernel

theorem test_resetDeviceFull_stops_the_interpreter :
    (after .resetDeviceFull (asking ready 0x03 [0x00])).link.interpreter = .stopped none := by decide +kernel

theorem test_resetDeviceTasks_frees_the_slot :
    let s := after .resetDeviceTasks
      (asking (inState plain (.eventCount { signal := 5, limit := 3 }) .running (.eventCount { signal := 5, limit := 3 } 1))
        0x03 [0x01])
    record s = none ∧ (s.lines.inputs.get 5).claims = [] ∧
      s.reports.entries.map Entry.report = [.deviceReset .power, .deviceReset .tasks] := by decide +kernel

theorem test_resetDevice_other_scope : answer (after .resetDevice (asking ready 0x03 [0x02])) = [0x04] := by
  decide +kernel

/-- 12.1 step 2: oldest 0, next 1, occupancy 1. -/
theorem test_openSessionResume :
    answer (after .openSessionResume (asking ready 0x08 [3, 0x01])) = [0x00, 0, 0, 0, 1, 1] := by decide +kernel

theorem test_openSessionClean :
    let s := after .openSessionClean (asking ready 0x08 [3, 0x00])
    s.reports = { entries := [], nextSeq := 0, lostCount := 0, session := some 3 } ∧ s.link.opened = true := by
  decide +kernel

theorem test_openSession_other_mode : answer (after .openSession (asking ready 0x08 [3, 0x02])) = [0x04] := by
  decide +kernel

theorem test_closeSession_unsends :
    let s := after .closeSession (asking (queued ready (filled 3 2 (some 8))) 0x09 [])
    s.reports.session = none ∧ s.reports.sentCount = 0 := by decide +kernel

/-- The queue of the range check across the wrap (chapter 9): seq 65530 to 33, five SENT, window 8. -/
def wrapped : State :=
  queued ready
    { filled 40 5 (some 8) with
      entries := (filled 40 5 (some 8)).entries.map fun e => { e with seq := e.seq - 6 }
      nextSeq := 34 }

/-- Chapter 9, first row: ACK_REPORTS 65532 leaves oldest 65533, next 34, occupancy 37. -/
theorem test_ack_across_the_wrap :
    answer (after .ackReports (asking wrapped 0x0A [0xFF, 0xFC])) = [0x00, 0xFF, 0xFD, 0, 34, 37] := by decide +kernel

/-- Chapter 9, second row: ACK_REPORTS 0 names the second PENDING entry. -/
theorem test_ack_of_pending_refused : answer (after .ackReports (asking wrapped 0x0A [0, 0])) = [0x0C] := by
  decide +kernel

/-- Chapter 9, last row: RESEND_REPORTS 65533 leaves the SENT count 3. -/
theorem test_resend_across_the_wrap :
    (after .resendReports (asking wrapped 0x0B [0xFF, 0xFD])).reports.sentCount = 3 := by decide +kernel

theorem test_unknownRequest : answer (after .unknownRequest (asking ready 0x2A [1, 2])) = [0x02] := by decide +kernel

/-! ### The requests of the timebase and the lines -/

theorem test_setTick_restarts_time :
    (after .setTick (asking { ready with timebase := { ready.timebase with time := 77 } } 0x10 [0x03])).timebase =
      { rate := .hundredMicro, time := 0, epoch := 1 } := by decide +kernel

/-- R52: refused while a slot is ARMED. -/
theorem test_setTick_refused_while_armed :
    answer (after .setTick
      (asking (inState plain (.span { signal := 5, mode := .pulse }) .armed
        (.span { signal := 5, mode := .pulse } { phase := .awaiting, count := 0, spanStart := 0 })) 0x10 [0x01])) =
      [0x05] := by decide +kernel

theorem test_getTime :
    answer (after .getTime (asking { ready with timebase := { rate := .micro, time := 1000500, epoch := 2 } } 0x11 [])) =
      [0x00, 0x00, 0x00, 0x00, 0x0F, 0x44, 0x34, 0x02, 0x01] := by decide +kernel

/-- R38: the new polarity makes the LOW line ACTIVE, without an edge. -/
theorem test_configInput :
    let s := after .configInput (asking ready 0x14 [4, 0x01, 3])
    (s.lines.inputs.get 4).cond = .active ∧ (s.lines.inputs.get 4).filter = 3 ∧
      s.tasks.updates.get 0 = none := by decide +kernel

theorem test_configOutput_drives :
    (after .configOutput (asking ready 0x15 [7, 0x01])).lines.outputs.get 7 =
      { idle := .high, owner := .none, level := .high, markEnd := none } := by decide +kernel

theorem test_setOutputActive :
    (after .setOutputActive (asking ready 0x16 [2, 0x01])).lines.outputs.get 2 =
      { idle := .low, owner := .host, level := .high, markEnd := none } := by decide +kernel

theorem test_setOutputIdle :
    (after .setOutputIdle (asking ready 0x16 [2, 0x00])).lines.outputs.get 2 =
      { idle := .low, owner := .host, level := .low, markEnd := none } := by decide +kernel

theorem test_setOutputRelease :
    ((after .setOutputRelease (asking (after .setOutputActive (asking ready 0x16 [2, 0x01])) 0x16 [2, 0x02])).lines.outputs.get
      2).owner = .none := by decide +kernel

theorem test_setOutput_other_action : answer (after .setOutput (asking ready 0x16 [2, 0x03])) = [0x04] := by
  decide +kernel

/-- R199: with one claim the response is 97 bytes, and the detail of IN5 lists T0 in role SIGNAL. -/
theorem test_getLines_detail :
    let data := answer (after .getLines
      (asking (inState plain (.eventCount { signal := 5, limit := 3 }) .idle (.eventCount { signal := 5, limit := 3 } 0))
        0x17 [5]))
    data.length = 97 ∧ data.drop 93 = [5, 1, 0, 0x04] := by decide +kernel

/-! ### The segment store -/

/-- R62, R66: a load without the final flag leaves the program OPEN. -/
theorem test_loadProgram_opens :
    (after .loadProgram (asking ready 0x1C [1, 0, 1, 0x01, 0, 0, 9])).programs.get 1 =
      { state := .loading, refCount := 0
        segments := [{ level := .active, duration := 9, reportEnd := false, wait := false }] } := by decide +kernel

/-- Chapter 4, pool accounting: 112 + 28 exceeds 128. -/
theorem test_appendProgram_too_long :
    let g : Segment := { level := .active, duration := 1, reportEnd := false, wait := false }
    let s : State :=
      { ready with
        programs := ready.programs.set 1 { state := .loading, refCount := 0, segments := List.replicate 112 g } }
    answer (after .appendProgram (asking s 0x1D ([1, 1, 28] ++ (List.replicate 28 g).flatMap Segment.bytes))) =
      [0x04] := by decide +kernel

theorem test_appendProgram_seals :
    (after .appendProgram
      (asking (after .loadProgram (asking ready 0x1C [1, 0, 1, 0x01, 0, 0, 9])) 0x1D [1, 1, 1, 0x0C, 0, 1, 0])).programs.get
        1 =
      { state := .sealed, refCount := 0
        segments :=
          [{ level := .active, duration := 9, reportEnd := false, wait := false },
           { level := .inactive, duration := 256, reportEnd := true, wait := true }] } := by decide +kernel

theorem test_eraseProgram :
    (after .eraseProgram (asking stored 0x1E [0])).programs.get 0 = { state := .empty, segments := [], refCount := 0 } := by
  decide +kernel

/-- R69: first index 1 returns the second segment alone. -/
theorem test_getProgram :
    (answer (after .getProgram (asking stored 0x1F [0, 1]))).reverse.take 4 = [1, 0, 0, 0x00] := by decide +kernel

/-! ### The requests on slots -/

/-- 12.2: T3 plays P2 on OUT1 with a gate on IN3; here T0 plays P0. -/
theorem test_defineTask_takes_lines_and_program :
    let s := after .defineTask
      (asking stored 0x20
        ([0, 0x01, 0x00, 0xFF, 0, 0, 1, 0xFF, 0, 0, 0, 3, 0, 0, 0, 0, 1, 0xFF, 0, 0] ++ [1, 0, 0, 2]))
    (s.lines.outputs.get 1).owner = .task 0 .wave ∧ (s.lines.inputs.get 3).claims = [(0, .gate)] ∧
      (s.programs.get 0).refCount = 1 ∧ answer s = [0x00] := by decide +kernel

/-- R4 check 4: the program is not SEALED. -/
theorem test_defineTask_unsealed_program :
    answer (after .defineTask
      (asking stored 0x20
        ([0, 0x01, 0x00, 0xFF, 0, 0, 1, 0xFF, 0, 0, 0, 3, 0, 0, 0, 0, 1, 0xFF, 0, 0] ++ [1, 5, 0, 2]))) = [0x05] := by
  decide +kernel

def countParams : CountParams := { signal := 5, limit := 3 }

/-- T0 counting edges of IN5, in a state of its life cycle. -/
def counter (st : TaskState) (count : Nat) : State :=
  inState plain (.eventCount countParams) st (.eventCount countParams count)

theorem test_deleteTask_frees_the_line :
    let s := after .deleteTask (asking (counter .done 3) 0x21 [0])
    record s = none ∧ (s.lines.inputs.get 5).claims = [] := by decide +kernel

theorem test_deleteTask_refused_in_run : answer (after .deleteTask (asking (counter .running 1) 0x21 [0])) = [0x05] := by
  decide +kernel

/-- R112: ARM_TASK puts the position at the preset. -/
theorem test_armTask_presets_the_position :
    let p : PositionParams :=
      { phaseA := 0, phaseB := 1, index := none, resolution := .x4, invert := false, preset := 1000, action := .none
        indexPhase := none, compare := none }
    ((record (after .armTask
      (asking (inState plain (.position p) .done
        (.position p { position := 7, phaseErrors := 2, indexSeen := true, indexLevel := false })) 0x22 [0]))).map
          fun t => (t.state, t.engine.principal)) = some (.armed, 1000) := by decide +kernel

theorem test_disarmTask : ((record (after .disarmTask (asking (counter .armed 0) 0x23 [0]))).map Task.state) = some .idle := by
  decide +kernel

theorem test_startTask :
    ((record (after .startTask (asking (counter .armed 3) 0x24 [0]))).map fun t => (t.state, t.engine.principal)) =
      some (.running, 0) := by decide +kernel

/-- R11: bit 0 of the mask is slot T0. -/
theorem test_startGroup :
    ((record (after (.startGroup atOnce) (asking (counter .armed 0) 0x25 [0x00, 0x01]))).map Task.state) = some .running := by
  decide +kernel

theorem test_startGroup_none_starts :
    let s := after (.startGroup atOnce) (asking (counter .armed 0) 0x25 [0x00, 0x03])
    (record s).map Task.state = some .armed ∧ answer s = [0x05] := by decide +kernel

/-- 5: a graceful stop of an EVENT_COUNT ends it at once with ending STOPPED (R22). -/
theorem test_stopTaskGraceful_ends_a_count :
    ((after .stopTaskGraceful (asking (counter .running 2) 0x26 [0, 0x00])).reports.entries.map Entry.report).getLast? =
      some (.taskDone .stopped 2 0 0) := by decide +kernel

/-- 12.2, the stop: a pulse train goes to STOPPING. -/
theorem test_stopTaskGraceful_lets_a_train_finish :
    let p : TrainParams := { wave := 1, program := 0, loops := 2 }
    ((record (after .stopTaskGraceful
      (asking (inState plain (.pulseTrain p) .running
        (.pulseTrain p { index := 1, remaining := 1, loopsDone := 0, waiting := false })) 0x26 [0, 0x00]))).map
          Task.state) = some .stopping := by decide +kernel

theorem test_stopTaskAbort :
    ((after .stopTaskAbort (asking (counter .running 2) 0x26 [0, 0x01])).reports.entries.map Entry.report).getLast? =
      some (.taskDone .aborted 2 0 0) := by decide +kernel

theorem test_stopTask_other_mode : answer (after .stopTask (asking (counter .running 2) 0x26 [0, 0x02])) = [0x04] := by
  decide +kernel

/-- R200: a FREE slot answers its number and the state code alone. -/
theorem test_queryTask_free : answer (after .queryTask (asking ready 0x27 [9])) = [0x00, 9, 0x00] := by decide +kernel

theorem test_readCount_ends_with_the_count :
    (answer (after .readCount (asking (counter .running 2) 0x28 [0]))).reverse.take 4 = [2, 0, 0, 0] := by decide +kernel

theorem test_setPosition_other_kind :
    answer (after .setPosition (asking (counter .running 2) 0x29 [0, 0, 0, 0, 1])) = [0x04] := by decide +kernel

/-! ### The link's events -/

theorem test_rxByte_sync : (after (.rxByte 0x5A) ready).link.receiver = .length := by decide +kernel

/-- R177, R180: LEN 121 is oversize, and a notice is queued. -/
theorem test_rxByte_oversize :
    let s := after (.rxByte 121) { ready with link := { ready.link with receiver := .length } }
    s.link.oversizeFrames = 1 ∧ s.link.responses.map OutFrame.payload = [[0x02]] := by decide +kernel

theorem test_frameAbandoned :
    (after .frameAbandoned { ready with link := { ready.link with receiver := .length } }).link.abandonedFrames = 1 := by
  decide +kernel

theorem test_responsePlaced :
    let r := noticeFrame .oversize
    (after .responsePlaced { ready with link := { ready.link with interpreter := .waiting r } }).link.responses = [r] := by
  decide +kernel

/-- 12.1 step 3: the session is OPEN and the response has been sent; the arbiter begins seq 0. -/
theorem test_frameBoundary_begins_a_report :
    let s := after .frameBoundary
      { queued ready { ready.reports with session := some 3 } with
        link := { ready.link with transmission := some { bytes := [], endsInFullReset := false } } }
    s.reports.entries.map Entry.delivery = [.sent] := by decide +kernel

/-- R186: a response goes before an eligible report. -/
theorem test_idleArbiterChoice_response_first :
    let s := after .idleArbiterChoice
      { queued ready { ready.reports with session := some 3 } with
        link := { ready.link with responses := [noticeFrame .crcError] } }
    s.reports.entries.map Entry.delivery = [.pending] ∧ s.link.responses = [] := by decide +kernel

theorem test_fullReset :
    let s := after (.fullReset { br1 := .low, br0 := .high })
      { counter .running 1 with
        link := { ready.link with transmission := some { bytes := [], endsInFullReset := true } } }
    record s = none ∧ s.link.lastReset = .full ∧ s.link.rate = 1 := by decide +kernel

theorem test_hardReset_drives_low :
    let s := after (.hardReset .pin) (after .configOutput (asking ready 0x15 [7, 0x01]))
    (s.lines.outputs.get 7).level = .low ∧ s.inReset = some .pin := by decide +kernel

theorem test_hardResetEnd :
    let s := after (.hardResetEnd { br1 := .high, br0 := .low }) (after (.hardReset .pin) (counter .running 1))
    record s = none ∧ s.link.lastReset = .pin ∧ s.link.rate = 2 ∧
      s.reports.entries.map Entry.report = [.deviceReset .pin] := by decide +kernel

/-! ### The lines and time -/

/-- All inputs LOW but one. -/
def levels (l : InLine) : Bank Level 12 := Bank.build 12 fun i => if i = l then .high else .low

/-- Chapter 2, filter by example: at s7 the fourth HIGH sample in a row makes the ACTIVE edge. -/
theorem test_filter_qualifies :
    let i : Input := { Input.reset with filter := 3, candidate := some 3 }
    let s := after (.sampleInstant (levels 4)) { ready with lines := { ready.lines with inputs := ready.lines.inputs.set 4 i } }
    (s.lines.inputs.get 4).cond = .active ∧ (s.lines.inputs.get 4).candidate = none := by decide +kernel

/-- Chapter 2, filter by example: at s3 a LOW sample discards the rising level. -/
theorem test_filter_discards :
    let i : Input := { Input.reset with filter := 3, candidate := some 2 }
    let s := after (.sampleInstant (levels 0)) { ready with lines := { ready.lines with inputs := ready.lines.inputs.set 4 i } }
    (s.lines.inputs.get 4).cond = .inactive ∧ (s.lines.inputs.get 4).candidate = none := by decide +kernel

/-- R50: device time wraps at 2^48. -/
theorem test_tickBoundary_wraps :
    (after .tickBoundary { ready with timebase := { ready.timebase with time := 0xFFFFFFFFFFFF } }).timebase.time = 0 := by
  decide +kernel

/-- R56: at the divider a task clock falls and the phase returns to 0. -/
theorem test_tickBoundary_task_clock :
    ((record (after .tickBoundary (counter .running 1))).map fun t => (t.tickPhase, t.clockDue)) = some (0, true) := by
  decide +kernel

theorem test_markExpiry :
    let o : Output := { idle := .low, owner := .task 0 .mark, level := .high, markEnd := some 0 }
    ((after (.markExpiry 3) { ready with lines := { ready.lines with outputs := ready.lines.outputs.set 3 o } }).lines.outputs.get
      3).level = .low := by decide +kernel

/-! ### The engines' events -/

/-- 12.4: the third edge reaches the limit: DONE, COUNT_LIMIT (3, 1), TASK_DONE (COMPLETE, 3, 1, 0). -/
theorem test_taskUpdate_count_limit :
    let s := after (.taskUpdate 0 atOnce) (withUpdate (counter .running 2) [(5, .active)])
    (record s).map Task.state = some .done ∧
      s.reports.entries.map Entry.report =
        [.deviceReset .power, .countLimit 3 1, .taskDone .complete 3 1 0] := by decide +kernel

/-- The parameters of T9 in chapter 6's order within one update: compare 120, LOAD to 0 on (ACTIVE, ACTIVE). -/
def axis : PositionParams :=
  { phaseA := 0, phaseB := 1, index := some 2, resolution := .x4, invert := false, preset := 0, action := .load
    indexPhase := some (.active, .active), compare := some 120 }

/-- Chapter 6, order within one update: the step to 120 matches, then the index loads 0. -/
theorem test_taskUpdate_position_whole :
    let s0 := inState plain (.position axis) .running
      (.position axis { position := 119, phaseErrors := 0, indexSeen := false, indexLevel := false })
    let s := after (.taskUpdate 0 atOnce)
      { s0 with
        tasks :=
          { s0.tasks with
            updates := s0.tasks.updates.set 0
              (some { changes := [(1, .active)], levels := [(0, .active), (1, .active), (2, .active)], time := 9 }) } }
    (record s).map (fun t => t.engine.principal) = some 0 ∧
      s.reports.entries.map Entry.report =
        [.deviceReset .power, .positionCompare 120 .up, .positionIndex 120 0] := by decide +kernel

/-- 12.2 at 10,270: the last segment ends, then TRAIN_END and TASK_DONE. -/
theorem test_taskClock_train_completes :
    let p : TrainParams := { wave := 1, program := 0, loops := 2 }
    let s := after (.taskClock 0 atOnce)
      (withClock (inState plain (.pulseTrain p) .stopping
        (.pulseTrain p { index := 1, remaining := 1, loopsDone := 1, waiting := false })))
    (record s).map Task.state = some .done ∧
      s.reports.entries.map Entry.report =
        [.deviceReset .power, .trainEnd 2, .taskDone .stopped 2 1 0] := by decide +kernel

def watch : DeadlineParams := { kick := 5, minimum := 2, maximum := 4, alert := some 6 }

/-- R131, R133: the expiry is LATE, and the alert line goes active. -/
theorem test_deadlineExpiry_late :
    let s := after (.deadlineExpiry 0 atOnce)
      (inState plain (.deadline watch) .running (.deadline watch { elapsed := 4, expiryDue := true, alert := false }))
    (s.lines.outputs.get 6).level = .high ∧
      s.reports.entries.map Entry.report =
        [.deviceReset .power, .deadlineViolation .late 4, .taskDone .complete 4 1 0] := by decide +kernel

/-! ### Witnesses: the hypotheses of every obligation that has some are met, clause by clause -/

theorem witness_StepCarriesOutTheFrontCommand :
    ({ ready with pending := [.getTime, .getTime] } : State).pending = .getTime :: [.getTime] ∧ ready.pending = [] :=
  ⟨rfl, rfl⟩

theorem witness_PowerOnResetLeavesTheResetState : ∃ t, exec (.hardReset .power) (counter .running 1) = .next t :=
  ⟨_, rfl⟩

/-- Payloads of 0 and of 120 bytes, and a request queue with and without a place. -/
theorem witness_ReceivedFrameIsAdmittedWhole :
    ready.inReset = none ∧ ready.link.receiver = .hunting ∧ ([] : List Byte).length ≤ 120 ∧
      (List.replicate 120 (0 : Byte)).length ≤ 120 ∧ ready.link.requests.length < 4 ∧
      ¬(List.replicate 4 (frame 0x11 [])).length < 4 := by decide

/-- The greatest divider and the longest mark on a record the manual allows, and a payload that is read. -/
theorem witness_TaskRecordIsReadAsCoded :
    RecordAllowed 0 { plain with clock := .timebase 65536, mark := some { line := 7, ticks := 65535 } }
      (.eventCount { signal := 11, limit := 4294967295 }) ∧
    RecordAllowed 15 plain (.deadline { kick := 0, minimum := 0, maximum := 1, alert := none }) ∧
    ∃ p, recordOf? 3 p = some (plain, .span { signal := 4, mode := .pulse }) := by
  refine ⟨⟨?_, ?_, ?_, ?_, ?_, ?_⟩, ⟨?_, ?_, ?_, ?_, ?_, ?_⟩,
    [3, 0x03, 0x00, 0xFF, 0, 0, 1, 0xFF, 0, 0, 0, 0xFF, 0, 0, 0, 0, 0, 0xFF, 0, 0, 4, 0x00], by decide +kernel⟩
  · intro d h; cases h; decide
  · intro h; cases h
  · intro h; cases h
  · intro m h; cases h; decide
  · exact ⟨⟨65536, rfl⟩, by decide, by decide⟩
  · decide
  · intro d h; cases h; decide
  · intro h; cases h
  · intro h; cases h
  · intro m h; cases h
  · exact ⟨rfl, by decide, by decide, by decide⟩
  · decide

theorem witness_SegmentsAreReadAsCoded :
    ∀ g ∈ [({ level := .active, duration := 1, reportEnd := true, wait := true } : Segment),
      { level := .inactive, duration := 16777215, reportEnd := false, wait := false }],
      1 ≤ g.duration ∧ g.duration ≤ 16777215 := by decide

/-- A row with no request to take, and one with its request in front. -/
theorem witness_RequestsAreTakenInTurnAndAnsweredOnce :
    rowOf .getTime = some .getTime ∧ (¬∃ f rest, Taking ready .getTime f rest) ∧ Request.getTime ≠ .resetDeviceFull ∧
      Taking (asking ready 0x11 []) .getTime (frame 0x11 []) [] := by
  refine ⟨rfl, ?_, by decide, taking_asking rfl rfl (by decide)⟩
  rintro ⟨f, rest, h⟩
  have h' : ([] : List Frame) = f :: rest := h.oldest
  cases h'

theorem witness_UnassignedAndMalformedRequestsAreRefused :
    Taking (asking ready 0x00 []) .unknown (frame 0x00 []) [] ∧
      Taking (asking ready 0x40 []) .unknown (frame 0x40 []) [] ∧
      Taking (asking ready 0x03 []) .resetDevice (frame 0x03 []) [] ∧
      Taking (asking ready 0x03 [0x02]) .resetDevice (frame 0x03 [0x02]) [] ∧
      Taking (asking ready 0x08 [1, 0x02]) .openSession (frame 0x08 [1, 0x02]) [] ∧
      Taking (asking ready 0x08 [1]) .openSession (frame 0x08 [1]) [] ∧
      Taking (asking ready 0x16 [0, 0x03]) .setOutput (frame 0x16 [0, 0x03]) [] ∧
      Taking (asking ready 0x16 [0, 1, 0]) .setOutput (frame 0x16 [0, 1, 0]) [] ∧
      Taking (asking ready 0x26 [0, 0x02]) .stopTask (frame 0x26 [0, 0x02]) [] ∧
      Taking (asking ready 0x26 [0]) .stopTask (frame 0x26 [0]) [] := by
  refine ⟨?_, ?_, ?_, ?_, ?_, ?_, ?_, ?_, ?_, ?_⟩ <;> exact taking_asking rfl rfl (by decide)

/-- Each reading request of its length, at the last number in range and the first out of it. -/
theorem witness_ReadRequestsAnswerAndChangeNothing :
    Taking (asking ready 0x01 []) .getIdentity (frame 0x01 []) [] ∧
      Taking (asking ready 0x11 []) .getTime (frame 0x11 []) [] ∧
      Taking (asking ready 0x17 [11]) .getLines (frame 0x17 [11]) [] ∧
      Taking (asking ready 0x17 [12]) .getLines (frame 0x17 [12]) [] ∧
      Taking (asking ready 0x17 [0xFF]) .getLines (frame 0x17 [0xFF]) [] ∧
      Taking (asking ready 0x1F [7, 127]) .getProgram (frame 0x1F [7, 127]) [] ∧
      Taking (asking ready 0x1F [7, 128]) .getProgram (frame 0x1F [7, 128]) [] ∧
      Taking (asking ready 0x27 [15]) .queryTask (frame 0x27 [15]) [] ∧
      Taking (asking ready 0x28 [16]) .readCount (frame 0x28 [16]) [] ∧
      Taking (asking ready 0x02 [0x00]) .getLinkStatus (frame 0x02 [0x00]) [] ∧
      Taking (asking ready 0x02 [0x01]) .getLinkStatus (frame 0x02 [0x01]) [] ∧
      Taking (asking ready 0x02 [0x02]) .getLinkStatus (frame 0x02 [0x02]) [] := by
  refine ⟨?_, ?_, ?_, ?_, ?_, ?_, ?_, ?_, ?_, ?_, ?_, ?_⟩ <;> exact taking_asking rfl rfl (by decide)

/-- With a place in the response queue, and with none. -/
theorem witness_FullResetRequestStopsTheInterpreter :
    Taking (asking ready 0x03 [0x00]) .resetDeviceFull (frame 0x03 [0x00]) [] ∧
      Taking
        (asking { ready with link := { ready.link with responses := List.replicate 4 (noticeFrame .oversize) } } 0x03
          [0x00])
        .resetDeviceFull (frame 0x03 [0x00]) [] :=
  ⟨taking_asking rfl rfl (by decide), taking_asking rfl rfl (by decide)⟩

theorem witness_TaskResetFreesEverySlot :
    Taking (asking (counter .running 1) 0x03 [0x01]) .resetDeviceTasks (frame 0x03 [0x01]) [] :=
  taking_asking (by decide +kernel) (by decide +kernel) (by decide)

/-- Both modes with the windows 0, 1, 32 and 33, and a session to close and none. -/
theorem witness_SessionsOpenAndClose :
    (∀ w ∈ [(0 : Byte), 1, 32, 33],
      Taking (asking ready 0x08 [w, 0x00]) .openSessionClean (frame 0x08 [w, 0x00]) [] ∧
        Taking (asking ready 0x08 [w, 0x01]) .openSessionResume (frame 0x08 [w, 0x01]) []) ∧
      Taking (asking ready 0x09 []) .closeSession (frame 0x09 []) [] ∧
      Taking (asking wrapped 0x09 []) .closeSession (frame 0x09 []) [] ∧ wrapped.reports.session ≠ none := by
  refine ⟨?_, taking_asking rfl rfl (by decide), taking_asking rfl rfl (by decide), by decide⟩
  intro w hw
  refine ⟨taking_asking rfl rfl ?_, taking_asking rfl rfl ?_⟩ <;> revert w <;> decide

/-- A full queue that waits behind its closed tail GAP with losses counted, one entry SENT. -/
def losing : ReportQueue :=
  { filled 63 1 (some 1) with
    entries := (filled 63 1 (some 1)).entries ++
      [{ seq := 63, delivery := .pending, report := .gap 2 false, source := .device, epoch := 0, time := 0 }]
    nextSeq := 64
    lostCount := 5 }

/-- The last SENT number, the first PENDING one, and a queue with losses to carry. -/
theorem witness_AcknowledgementRemovesThroughItsNumber :
    wrapped.reports.Sound ∧ Taking (asking wrapped 0x0A [0xFF, 0xFE]) .ackReports (frame 0x0A [0xFF, 0xFE]) [] ∧
      Taking (asking wrapped 0x0A [0xFF, 0xFF]) .ackReports (frame 0x0A [0xFF, 0xFF]) [] ∧
      Taking (asking wrapped 0x0A [0xFF]) .ackReports (frame 0x0A [0xFF]) [] ∧ losing.Sound ∧
      Taking (asking (queued ready losing) 0x0A [0, 0]) .ackReports (frame 0x0A [0, 0]) [] ∧ losing.lostCount ≠ 0 := by
  refine ⟨queueSound_of_ok (by decide +kernel), taking_asking rfl rfl (by decide), taking_asking rfl rfl (by decide),
    taking_asking rfl rfl (by decide), queueSound_of_ok (by decide +kernel), taking_asking rfl rfl (by decide), by decide⟩

theorem witness_ResendReturnsEntriesFromItsNumber :
    Taking (asking wrapped 0x0B [0xFF, 0xFE]) .resendReports (frame 0x0B [0xFF, 0xFE]) [] ∧
      Taking (asking wrapped 0x0B [0xFF, 0xF9]) .resendReports (frame 0x0B [0xFF, 0xF9]) [] ∧
      Taking (asking ready 0x0B [0, 0]) .resendReports (frame 0x0B [0, 0]) [] ∧
      Taking (asking ready 0x0B []) .resendReports (frame 0x0B []) [] := by
  refine ⟨?_, ?_, ?_, ?_⟩ <;> exact taking_asking rfl rfl (by decide)

/-- Rate codes 3 and 4, an ARMED slot, and an entry of the next epoch. -/
theorem witness_SetTickRestartsDeviceTime :
    Taking (asking ready 0x10 []) .setTick (frame 0x10 []) [] ∧
      Taking (asking ready 0x10 [4]) .setTick (frame 0x10 [4]) [] ∧ 3 < (4 : Byte).toNat ∧
      Taking (asking (counter .armed 0) 0x10 [3]) .setTick (frame 0x10 [3]) [] ∧
      (∃ k t, (counter .armed 0).task? k = some t ∧ t.state = .armed) ∧
      Taking (asking ready 0x10 [3]) .setTick (frame 0x10 [3]) [] ∧ tickLayout .hundredMicro = 3 ∧
      (∀ k t, ready.task? k = some t → t.state ≠ .armed ∧ t.state ≠ .running ∧ t.state ≠ .stopping) ∧
      (∀ e ∈ ready.reports.entries, e.epoch ≠ ready.timebase.epoch + 1) ∧
      (let s : State := { ready with timebase := { ready.timebase with epoch := 255 } }
       Taking (asking s 0x10 [0]) .setTick (frame 0x10 [0]) [] ∧
         ∃ e ∈ s.reports.entries, e.epoch = s.timebase.epoch + 1) := by
  refine ⟨taking_asking rfl rfl (by decide), taking_asking rfl rfl (by decide), by decide,
    taking_asking (by decide +kernel) (by decide +kernel) (by decide), ⟨0, _, by rfl, by decide +kernel⟩,
    taking_asking rfl rfl (by decide), rfl, ?_, by decide, taking_asking rfl rfl (by decide), by decide⟩
  intro k t h
  rw [show ready.task? k = none from Bank.get_fill _ _] at h
  cases h

theorem witness_ConfigInputDerivesTheLevelAfresh :
    Taking (asking ready 0x14 [11, 1, 63]) .configInput (frame 0x14 [11, 1, 63]) [] ∧
      Taking (asking ready 0x14 [12, 0, 0]) .configInput (frame 0x14 [12, 0, 0]) [] ∧
      Taking (asking ready 0x14 [0, 2, 64]) .configInput (frame 0x14 [0, 2, 64]) [] ∧
      Taking (asking (counter .idle 0) 0x14 [5, 0, 0]) .configInput (frame 0x14 [5, 0, 0]) [] ∧
      ((counter .idle 0).lines.inputs.get 5).claims ≠ [] := by
  refine ⟨taking_asking rfl rfl (by decide), taking_asking rfl rfl (by decide), taking_asking rfl rfl (by decide),
    taking_asking (by decide +kernel) (by decide +kernel) (by decide), by decide +kernel⟩

theorem witness_ConfigOutputDrivesTheIdleLevel :
    Taking (asking ready 0x15 [7, 1]) .configOutput (frame 0x15 [7, 1]) [] ∧
      Taking (asking ready 0x15 [8, 0]) .configOutput (frame 0x15 [8, 0]) [] ∧
      Taking (asking ready 0x15 [0, 2]) .configOutput (frame 0x15 [0, 2]) [] := by
  refine ⟨?_, ?_, ?_⟩ <;> exact taking_asking rfl rfl (by decide)

/-- The watch on IN5 with its alert on OUT6, in a state of its life cycle. -/
def watching (c : Common) (st : TaskState) (r : DeadlineRun) : State := inState c (.deadline watch) st (.deadline watch r)

def atStart : DeadlineRun := { elapsed := 0, expiryDue := false, alert := false }

/-- The lines OUT7 and 8 with each action, and a line a task owns. -/
theorem witness_SetOutputTakesDrivesAndReleases :
    Taking (asking ready 0x16 [7, 0x01]) .setOutputActive (frame 0x16 [7, 0x01]) [] ∧
      Taking (asking ready 0x16 [7, 0x00]) .setOutputIdle (frame 0x16 [7, 0x00]) [] ∧
      Taking (asking ready 0x16 [7, 0x02]) .setOutputRelease (frame 0x16 [7, 0x02]) [] ∧
      Taking (asking ready 0x16 [8, 0x01]) .setOutputActive (frame 0x16 [8, 0x01]) [] ∧
      (∀ k r, (ready.lines.outputs.get 7).owner ≠ .task k r) ∧
      Taking (asking (watching plain .idle atStart) 0x16 [6, 0x01]) .setOutputActive (frame 0x16 [6, 0x01]) [] ∧
      ((watching plain .idle atStart).lines.outputs.get 6).owner = .task 0 .alert := by
  refine ⟨taking_asking rfl rfl (by decide), taking_asking rfl rfl (by decide), taking_asking rfl rfl (by decide),
    taking_asking rfl rfl (by decide), ?_, taking_asking (by decide +kernel) (by decide +kernel) (by decide),
    by decide +kernel⟩
  intro k r h
  rw [show (ready.lines.outputs.get 7).owner = .none by decide] at h
  cases h

/-- Loads of 2, 3 and 7 bytes, a program number out of range, counts 0 and 29, and an append to an OPEN program. -/
theorem witness_ProgramsAreLoadedExtendedAndErased :
    Taking (asking ready 0x1C [0, 1]) .loadProgram (frame 0x1C [0, 1]) [] ∧
      Taking (asking ready 0x1C [0, 1, 1]) .loadProgram (frame 0x1C [0, 1, 1]) [] ∧
      Taking (asking ready 0x1C [8, 1, 1, 0, 0, 0, 1]) .loadProgram (frame 0x1C [8, 1, 1, 0, 0, 0, 1]) [] ∧
      Taking (asking ready 0x1D [0, 1, 0]) .appendProgram (frame 0x1D [0, 1, 0]) [] ∧
      Taking (asking ready 0x1C ([0, 1, 29] ++ List.replicate 116 0)) .loadProgram
        (frame 0x1C ([0, 1, 29] ++ List.replicate 116 0)) [] ∧
      Taking (asking ready 0x1C [7, 0, 1, 0, 0, 0, 1]) .loadProgram (frame 0x1C [7, 0, 1, 0, 0, 0, 1]) [] ∧
      Taking (asking ready 0x1D [7, 0, 1, 0, 0, 0, 1]) .appendProgram (frame 0x1D [7, 0, 1, 0, 0, 0, 1]) [] ∧
      segmentsOf? (1 : Byte).toNat [0, 0, 0, 1] =
        some [{ level := .inactive, duration := 1, reportEnd := false, wait := false }] ∧
      segmentsOf? (1 : Byte).toNat [0, 0, 0, 0] = none ∧ (7 : Byte).toNat = (7 : Prog).val ∧
      Taking (asking stored 0x1E [7]) .eraseProgram (frame 0x1E [7]) [] ∧
      Taking (asking stored 0x1E [8]) .eraseProgram (frame 0x1E [8]) [] ∧
      Taking (asking stored 0x1E []) .eraseProgram (frame 0x1E []) [] := by
  refine ⟨?_, ?_, ?_, ?_, ?_, ?_, ?_, by decide +kernel, by decide +kernel, rfl, ?_, ?_, ?_⟩ <;>
    exact taking_asking rfl rfl (by decide)

/-- The record of a PULSE_TRAIN on OUT1 playing P0 or P5, with a gate on IN3, for slot T0. -/
def trainRecord (program : Byte) : List Byte :=
  [0, 0x01, 0x00, 0xFF, 0, 0, 1, 0xFF, 0, 0, 0, 3, 0, 0, 0, 0, 1, 0xFF, 0, 0, 1, program, 0, 2]

def trainCommon : Common := { plain with gate := some { line := 3, openWhen := .active }, reportStart := true }
def trainParams : TrainParams := { wave := 1, program := 0, loops := 2 }

theorem witness_DefineTaskTakesEffectWhole :
    Taking (asking stored 0x20 (trainRecord 0)) .defineTask (frame 0x20 (trainRecord 0)) [] ∧
      defineLenOk (trainRecord 0) = true ∧ (byteAt (trainRecord 0) 0).toNat = (0 : Slot).val ∧ stored.task? 0 = none ∧
      recordOf? 0 (trainRecord 0) = some (trainCommon, .pulseTrain trainParams) ∧
      (∀ p, (KindParams.pulseTrain trainParams).program? = some p → (stored.programs.get p).state = .sealed ∧
        (trainCommon.trigger = none → ∀ g ∈ (stored.programs.get p).segments, g.wait = false)) ∧
      (∀ l r, (l, r) ∈ outputsOf trainCommon (.pulseTrain trainParams) →
        (stored.lines.outputs.get l).owner = .none) ∧
      ∀ l, (stored.lines.inputs.get l).claims.length +
        ((claimsOf trainCommon (.pulseTrain trainParams)).filter fun x => x.1 == l).length ≤ 4 := by
  refine ⟨taking_asking rfl rfl (by decide), by decide +kernel, by decide, by decide +kernel, by decide +kernel, ?_, ?_,
    by decide +kernel⟩
  · intro p hp
    cases hp
    exact ⟨by decide +kernel, fun _ => by decide +kernel⟩
  · intro l r h
    obtain ⟨rfl, rfl⟩ : l = 1 ∧ r = .wave := by simpa [outputsOf, trainCommon, plain, trainParams] using h
    decide +kernel

/-- A length, a slot out of range and one in use, a record refused, an unsealed program, and a line already owned. -/
theorem witness_DefineTaskRefusesInOrder :
    (Taking (asking stored 0x20 [0, 1]) .defineTask (frame 0x20 [0, 1]) [] ∧ defineLenOk [0, 1] = false) ∧
      defineLenOk [0x10, 0x07] = true ∧ 15 < (byteAt [0x10, 0x07] 0).toNat ∧ (counter .idle 0).task? 0 ≠ none ∧
      recordOf? 0 [0, 0x07] = none ∧ (stored.programs.get 5).state ≠ .sealed ∧
      recordOf? 0 (trainRecord 5) = some (trainCommon, .pulseTrain { trainParams with program := 5 }) ∧
      ((asking (after .setOutputActive (asking stored 0x16 [1, 0x01])) 0x20 (trainRecord 0)).lines.outputs.get 1).owner ≠
        .none ∧
      4 < (List.replicate 4 ((1 : Slot), InRole.gate)).length +
        ((claimsOf trainCommon (.pulseTrain trainParams)).filter fun x => x.1 == 3).length := by
  refine ⟨⟨taking_asking rfl rfl (by decide), by decide⟩, by decide, by decide, by decide +kernel, by decide +kernel,
    by decide +kernel, by decide +kernel, by decide +kernel, by decide +kernel⟩

/-- Slots T15 and 16, a FREE slot, and a slot in a state that refuses. -/
theorem witness_DeleteTaskFreesTheSlot :
    Taking (asking (counter .done 3) 0x21 [0]) .deleteTask (frame 0x21 [0]) [] ∧
      Taking (asking (counter .running 1) 0x21 [0]) .deleteTask (frame 0x21 [0]) [] ∧
      Taking (asking ready 0x21 [15]) .deleteTask (frame 0x21 [15]) [] ∧
      Taking (asking ready 0x21 [16]) .deleteTask (frame 0x21 [16]) [] := by
  refine ⟨taking_asking (by decide +kernel) (by decide +kernel) (by decide),
    taking_asking (by decide +kernel) (by decide +kernel) (by decide), taking_asking rfl rfl (by decide),
    taking_asking rfl rfl (by decide)⟩

theorem witness_ArmAndDisarmMoveTheSlot :
    Taking (asking (counter .idle 0) 0x22 [0]) .armTask (frame 0x22 [0]) [] ∧
      (record (counter .idle 0)).map Task.state = some .idle ∧
      Taking (asking (counter .armed 0) 0x23 [0]) .disarmTask (frame 0x23 [0]) [] ∧
      (record (counter .armed 0)).map Task.state = some .armed ∧
      Taking (asking ready 0x23 [16]) .disarmTask (frame 0x23 [16]) [] := by
  refine ⟨taking_asking (by decide +kernel) (by decide +kernel) (by decide), by decide +kernel,
    taking_asking (by decide +kernel) (by decide +kernel) (by decide), by decide +kernel, taking_asking rfl rfl (by decide)⟩

theorem witness_StartTaskStartsAnArmedTask :
    Taking (asking (counter .armed 0) 0x24 [0]) .startTask (frame 0x24 [0]) [] ∧
      (∃ a, (counter .armed 0).task? 0 = some a ∧ a.state = .armed) ∧
      (counter .armed 0).readyFor [0] = counter .armed 0 ∧ (counter .armed 0).clearFor [0] = counter .armed 0 ∧
      Taking (asking ready 0x24 [15]) .startTask (frame 0x24 [15]) [] ∧ ready.task? 15 = none ∧
      Taking (asking ready 0x24 [16]) .startTask (frame 0x24 [16]) [] ∧ 15 < (16 : Byte).toNat ∧
      Taking (asking ready 0x24 []) .startTask (frame 0x24 []) [] := by
  refine ⟨taking_asking (by decide +kernel) (by decide +kernel) (by decide), ⟨_, by rfl, by decide +kernel⟩,
    by decide +kernel, by decide +kernel, taking_asking rfl rfl (by decide), by decide +kernel,
    taking_asking rfl rfl (by decide), by decide,
    taking_asking rfl rfl (by decide)⟩

/-- The masks 0001h of an ARMED slot, 8000h of a FREE one, and 0. -/
theorem witness_StartGroupStartsAllOrNone :
    Taking (asking (counter .armed 0) 0x25 [0x00, 0x01]) .startGroup (frame 0x25 [0x00, 0x01]) [] ∧
      (((counter .armed 0).readyFor [0]).clearFor [0]).OwnershipSound ∧ (counter .armed 0).readyFor [0] = counter .armed 0 ∧
      (∀ k : Slot, ((0x00 : Byte) ++ (0x01 : Byte) : BitVec 16).getLsbD k.val = true →
        ∃ r, (counter .armed 0).task? k = some r ∧ r.state = .armed) ∧
      Taking (asking ready 0x25 [0x80, 0x00]) .startGroup (frame 0x25 [0x80, 0x00]) [] ∧
      (((0x80 : Byte) ++ (0x00 : Byte) : BitVec 16).getLsbD (15 : Slot).val = true ∧ ready.task? 15 = none) ∧
      Taking (asking ready 0x25 [0, 0]) .startGroup (frame 0x25 [0, 0]) [] ∧
      Taking (asking ready 0x25 [1]) .startGroup (frame 0x25 [1]) [] := by
  refine ⟨taking_asking (by decide +kernel) (by decide +kernel) (by decide), ownershipSound_of_ok (by decide +kernel),
    by decide +kernel, ?_, taking_asking rfl rfl (by decide), by decide +kernel, taking_asking rfl rfl (by decide),
    taking_asking rfl rfl (by decide)⟩
  intro k hk
  have : k = 0 := by revert k; decide
  subst this
  exact ⟨_, by rfl, by decide +kernel⟩

/-- T0 playing P0 on OUT1, with its gate on IN3, in a state of its life cycle. -/
def train (c : Common) (st : TaskState) (r : TrainRun) : State :=
  inState c (.pulseTrain trainParams) st (.pulseTrain trainParams r)

def atClock (index remaining loopsDone : Nat) : TrainRun :=
  { index := index, remaining := remaining, loopsDone := loopsDone, waiting := false }

/-- An abort, a graceful stop of a count, of a train and of one STOPPING, a FREE slot, and slot 16. -/
theorem witness_StopsEndOrFinishTheRun :
    Taking (asking (counter .running 1) 0x26 [0, 0x01]) .stopTaskAbort (frame 0x26 [0, 0x01]) [] ∧
      Taking (asking (counter .running 1) 0x26 [0, 0x00]) .stopTaskGraceful (frame 0x26 [0, 0x00]) [] ∧
      (∃ a, (counter .running 1).task? 0 = some a ∧ a.state = .running ∧ a.engine.finishes = false) ∧
      (counter .running 1).readyFor [0] = counter .running 1 ∧
      Taking (asking (train plain .running (atClock 0 2 0)) 0x26 [0, 0x00]) .stopTaskGraceful (frame 0x26 [0, 0x00]) [] ∧
      (∃ a, (train plain .running (atClock 0 2 0)).task? 0 = some a ∧ a.state = .running ∧ a.engine.finishes = true) ∧
      (∃ a, (train plain .stopping (atClock 0 2 0)).task? 0 = some a ∧ a.state = .stopping) ∧
      Taking (asking ready 0x26 [15, 0x00]) .stopTaskGraceful (frame 0x26 [15, 0x00]) [] ∧ ready.task? 15 = none ∧
      Taking (asking ready 0x26 [16, 0x01]) .stopTaskAbort (frame 0x26 [16, 0x01]) [] := by
  refine ⟨taking_asking (by decide +kernel) (by decide +kernel) (by decide),
    taking_asking (by decide +kernel) (by decide +kernel) (by decide), ⟨_, by rfl, by decide +kernel⟩, by decide +kernel,
    taking_asking (by decide +kernel) (by decide +kernel) (by decide), ⟨_, by rfl, by decide +kernel⟩,
    ⟨_, by rfl, by decide +kernel⟩, taking_asking rfl rfl (by decide), by decide +kernel, taking_asking rfl rfl (by decide)⟩

theorem witness_SetPositionSetsThePositionAlone :
    Taking (asking (counter .idle 0) 0x29 [0, 0x80, 0, 0, 0]) .setPosition (frame 0x29 [0, 0x80, 0, 0, 0]) [] ∧
      Taking (asking ready 0x29 [16, 0, 0, 0, 0]) .setPosition (frame 0x29 [16, 0, 0, 0, 0]) [] ∧
      Taking (asking ready 0x29 [15]) .setPosition (frame 0x29 [15]) [] := by
  refine ⟨taking_asking (by decide +kernel) (by decide +kernel) (by decide), taking_asking rfl rfl (by decide),
    taking_asking rfl rfl (by decide)⟩

theorem witness_ReceiverTakesEachByteByItsPhase :
    ready.inReset = none ∧ (after (.hardReset .pin) ready).inReset ≠ none := by decide +kernel

/-- A link that holds a response, free places of the response queue, and a part in reset. -/
theorem witness_HeldResponseTakesAFreePlace :
    ready.inReset = none ∧ ready.link.responses.length < 4 ∧
      ({ ready.link with interpreter := .waiting (noticeFrame .oversize) } : Link).interpreter =
        .waiting (noticeFrame .oversize) ∧
      ({ ready.link with interpreter := .stopped (some (noticeFrame .oversize)) } : Link).interpreter =
        .stopped (some (noticeFrame .oversize)) ∧ ready.link.interpreter.held = none := by decide +kernel

/-- The window 6 with five SENT has credit, the window 5 has none. -/
theorem witness_ArbiterSendsResponsesThenReports :
    (Instr.idleArbiterChoice = .idleArbiterChoice ∧ ready.inReset = none ∧ ready.link.transmission = none) ∧
      (∃ x, ({ ready.link with transmission := some { bytes := [], endsInFullReset := false } } : Link).transmission =
        some x ∧ x.endsInFullReset = false) ∧
      ({ ready.link with responses := [noticeFrame .crcError] } : Link).responses = noticeFrame .crcError :: [] ∧
      (filled 7 5 (some 6)).session = some 6 ∧ (filled 7 5 (some 6)).sentCount < 6 ∧
      (∃ sent e pending, (filled 7 5 (some 6)).entries = sent ++ e :: pending ∧ (∀ x ∈ sent, x.delivery = .sent) ∧
        e.delivery = .pending) ∧
      (∃ w, (filled 7 5 (some 5)).session = some w ∧ w ≤ (filled 7 5 (some 5)).sentCount) ∧
      (∀ x ∈ (filled 3 3 (some 6)).entries, x.delivery = .sent) ∧ ready.reports.session = none := by
  refine ⟨by decide, ⟨_, rfl, rfl⟩, rfl, rfl, by decide +kernel,
    ⟨(filled 7 5 (some 6)).entries.take 5, (filled 7 5 (some 6)).entries[5], (filled 7 5 (some 6)).entries.drop 6,
      by decide +kernel, by decide +kernel, by decide +kernel⟩, ⟨5, rfl, by decide +kernel⟩, by decide +kernel, rfl⟩

theorem witness_HardResetCutsTheLinkAndDrivesOutputsLow :
    (after (.hardReset .power) ready).inReset ≠ none ∧ ¬(ready.inReset ≠ none) := by decide +kernel

theorem witness_ResetsSetEveryBlock :
    (after (.hardReset .power) ready).inReset = some .power ∧ (after (.hardReset .pin) ready).inReset = some .pin ∧
      (∃ x, ({ ready.link with transmission := some { bytes := [], endsInFullReset := true } } : Link).transmission =
        some x ∧ x.endsInFullReset = true) ∧
      (∃ t, exec (.hardResetEnd { br1 := .low, br0 := .high }) (after (.hardReset .pin) ready) = .next t) ∧
      ready.inReset = none ∧ ∀ x, ready.link.transmission = some x → x.endsInFullReset = false := by
  refine ⟨by decide +kernel, by decide +kernel, ⟨_, rfl, rfl⟩, ⟨_, rfl⟩, rfl, ?_⟩
  intro x h
  cases h

theorem witness_SampleInstantFormsChangesAndViews :
    ready.inReset = none ∧ (∀ k, ready.tasks.updates.get k = none) ∧ ready.lines.sampled = true ∧
      State.reset.lines.sampled = false ∧ ∃ k, (withUpdate ready [(0, .active)]).tasks.updates.get k ≠ none := by
  refine ⟨rfl, fun k => Bank.get_fill _ _, rfl, rfl, 0, by decide +kernel⟩

theorem witness_TickBoundaryCountsTimeAndPhases :
    ready.inReset = none ∧ (∀ k, ready.tasks.updates.get k = none) ∧
      (∀ k a, ready.task? k = some a → ¬(a.works = true ∧ a.clockDue = true) ∧
        ¬(a.inRun = true ∧ a.engine.expiryDue = true)) ∧
      (∀ l, (ready.lines.outputs.get l).markEnd ≠ some ready.timebase.time) ∧
      ∃ k a, (withClock (counter .running 1)).task? k = some a ∧ a.works = true ∧ a.clockDue = true := by
  refine ⟨rfl, fun k => Bank.get_fill _ _, ?_, ?_, 0, _, by rfl, by decide +kernel, by decide +kernel⟩
  · intro k a h
    rw [show ready.task? k = none from Bank.get_fill _ _] at h
    cases h
  · decide +kernel

theorem witness_MarkPulseEndsAtItsEndTime :
    ready.inReset = none ∧
      ({ Output.reset with markEnd := some ready.timebase.time } : Output).markEnd = some ready.timebase.time ∧
      (ready.lines.outputs.get 0).markEnd ≠ some ready.timebase.time := by decide +kernel

/-- Occupancies 62, 63 and 64, with an open GAP at the tail and without. -/
theorem witness_OfferedReportIsAdmittedOrCounted :
    (filled 62 0 none).entries.length ≤ 62 ∧ 63 ≤ (filled 63 0 none).entries.length ∧
      (∀ older gap count, (filled 63 0 none).entries = older ++ [gap] → gap.report ≠ .gap count true) ∧
      63 ≤ losing.entries.length ∧
      (∀ older gap count, losing.entries = older ++ [gap] → gap.report ≠ .gap count true) ∧
      ∃ older gap, ((filled 63 0 none).insertGap 0 0).entries = older ++ [gap] ∧ gap.report = .gap 0 true := by
  have key : ∀ q : ReportQueue, q.tailOpenGap = false →
      ∀ older gap count, q.entries = older ++ [gap] → gap.report ≠ .gap count true := by
    intro q hq older gap count h hr
    rw [(q.tailOpenGap_iff).2 ⟨older, gap, count, h, hr⟩] at hq
    cases hq
  refine ⟨by decide +kernel, by decide +kernel, key _ (by decide +kernel), by decide +kernel, key _ (by decide +kernel),
    (filled 63 0 none).entries, _, rfl, rfl⟩

def critical : Common := { plain with reportClass := .critical, reportStart := true }

/-- An offer of a CRITICAL task. -/
def offerBy (k : Slot) (r : Report) : Offer := { slot := k, reportClass := .critical, report := r }

/-- The offers a CRITICAL, ONCE SPAN task in slot T4 has waiting in chapter 8's example: its result, then TASK_DONE. -/
def closing : OpenEvent :=
  { epoch := 0, time := 0, own := [offerBy 4 (.spanResult 9 1 false)], free := [offerBy 4 (.taskDone .complete 9 1 0)]
    lost := [] }

/-- T4 as that event leaves it: DONE, and CRITICAL. -/
def closed (s : State) : State :=
  { s.setTask 4
      { state := .done, held := false, common := critical
        engine := .span { signal := 6, mode := .pulse } { phase := .awaiting, count := 9, spanStart := 1 }, runCount := 1
        overrunCount := 0, faultReason := none, startTime := 0, tickPhase := 0, clockDue := false } with
    events := [closing] }

/-- The reports of a state, from its `n`th entry on. -/
def reportsFrom (n : Nat) (s : State) : List Report := (s.reports.entries.drop n).map Entry.report

/-- The offers of T0, NORMAL and ONCE, at its limit in that example. -/
def limiting : OpenEvent :=
  { closing with
    own := [{ slot := 0, reportClass := .normal, report := .countLimit 3 1 }]
    free := [{ slot := 0, reportClass := .normal, report := .taskDone .complete 3 1 0 }] }

/-- R147, and chapter 8's example in its order: of two engines at one instant, the results enter first and then the two
TASK_DONEs. -/
theorem test_turns_interleave_two_engines :
    reportsFrom 1 (State.takeTurns { closed ready with events := [closing, limiting] } (leaving [4, 0, 4, 0])) =
      [.spanResult 9 1 false, .countLimit 3 1, .taskDone .complete 9 1 0, .taskDone .complete 3 1 0] := by decide +kernel

/-- Chapter 8, three offers at the last places, from the second on: T4's result takes the 63rd place, the rest is counted
in one GAP, and T4 faults at the end of its event, its TASK_FAULT the fourth loss. -/
theorem test_turns_at_the_last_places :
    let s := State.takeTurns { closed (queued ready (filled 62 0 none)) with events := [closing, limiting] }
      (leaving [4, 0, 4, 0, 4])
    reportsFrom 62 s = [.spanResult 9 1 false, .gap 4 true] ∧ s.reports.nextSeq = 64 ∧
      (s.task? 4).map (fun t => (t.state, t.faultReason)) = some (.faulted, some .reportLost) := by decide +kernel

/-- R154, room has been made: an acknowledgement between the loss and the TASK_FAULT has it admitted. -/
theorem test_task_fault_admitted_where_room_was_made :
    let s := (queued (closed ready) (filled 63 2 (some 8))).takeTurns (leaving [4, 4])
    reportsFrom 61 (queued s (s.reports.acknowledge 1 0 0)).settle = [.gap 2 true, .taskFault .reportLost 9] := by
  decide +kernel

/-- R144, R183: the TASK_DONE of a stop stands in the queue after the request, ahead of the offers of another engine that still
wait, and so before anything a later request does. -/
theorem test_report_of_a_request_enters_in_its_event :
    let s := after .stopTaskAbort (asking { counter .running 2 with events := [closing] } 0x26 [0, 0x01])
    reportsFrom 1 s = [.taskDone .aborted 2 0 0] ∧ s.events = [closing] := by decide +kernel

/-- R25, R154: a CRITICAL task whose TASK_DONE is refused faults in the stop's own event, and two losses are counted. -/
theorem test_stop_of_a_critical_task_at_a_full_queue :
    let s := after .stopTaskAbort
      (asking (queued (inState { plain with reportClass := .critical } (.eventCount countParams) .running
        (.eventCount countParams 2)) (filled 63 0 none)) 0x26 [0, 0x01])
    reportsFrom 63 s = [.gap 2 true] ∧ (record s).map Task.state = some .faulted ∧ s.events = [] := by decide +kernel

/-- T4's event, and a second event in which an offer of T7 waits behind one of T4. -/
def interleaved : State :=
  { ready with
    events :=
      [closing,
       { epoch := 0, time := 0, own := [offerBy 4 (.trainEnd 1)], free := [offerBy 7 (.taskStarted .after)], lost := [] }] }

/-- A slot with no offer, the first of an engine's own, an offer behind another engine's, the last of an event, and its loss. -/
theorem witness_TurnsKeepEachEnginesOrder :
    (∀ e ∈ interleaved.events, ∀ o ∈ e.offers, o.slot ≠ 3) ∧
      (∃ e later, interleaved.events = [] ++ e :: later ∧ (∃ o ∈ e.offers, o.slot = 4) ∧
        (∃ o own, e.own = o :: own ∧ o.slot = 4) ∧ interleaved.reports.entries.length ≤ 62) ∧
      (∃ b e, interleaved.events = [b] ++ e :: [] ∧ (∀ o ∈ b.offers, o.slot ≠ 7) ∧ (∃ o ∈ e.offers, o.slot = 7) ∧
        ∃ o own, e.own = o :: own ∧ o.slot ≠ 7) ∧
      ∃ e : OpenEvent, e = { closing with own := [] } ∧ (∃ o ∈ e.offers, o.slot = 4) ∧ e.own = [] ∧
        (∃ o l r, e.free = l ++ o :: r ∧ o.slot = 4 ∧ o.reportClass = .critical ∧
          (∀ reason value, o.report ≠ .taskFault reason value) ∧ (∀ x ∈ l, x.slot ≠ 4) ∧
          ({ e with free := l ++ r } : OpenEvent).offers = []) ∧
        63 ≤ (filled 63 0 none).entries.length :=
  ⟨by decide, ⟨_, _, rfl, by decide, ⟨_, _, rfl, rfl⟩, by decide⟩,
    ⟨_, _, rfl, by decide, by decide, _, _, rfl, by decide⟩,
    ⟨_, rfl, by decide, rfl, ⟨_, [], [], rfl, rfl, rfl, nofun, by decide, rfl⟩, by decide +kernel⟩⟩

/-- No open event, two of them, of which none is of T3 and the last of T7, and one in which a TASK_FAULT alone waits, with
room made. -/
theorem witness_EventEndsWithTheFaultsOfItsLosses :
    ready.events = [] ∧ (∃ e rest, interleaved.events = e :: rest) ∧
      (∀ x ∈ interleaved.events, ∀ k ∈ [(3 : Slot)], k ∉ x.lost ∧ ∀ o ∈ x.offers, o.slot ≠ k) ∧
      (∃ before e, interleaved.events = before ++ [e] ∧
        (∀ x ∈ before, ∀ k ∈ [(7 : Slot)], k ∉ x.lost ∧ ∀ o ∈ x.offers, o.slot ≠ k) ∧
        ¬ ∀ k ∈ [(7 : Slot)], k ∉ e.lost ∧ ∀ o ∈ e.offers, o.slot ≠ k) ∧
      ∃ (s : State) (e : OpenEvent) (a : Task), s.events = [e] ∧ e.own = [] ∧ s.task? 4 = some a ∧
        e.free = [offerOf 4 a (.taskFault .reportLost 9)] ∧ e.lost = [] ∧ s.reports.entries.length ≤ 62 :=
  ⟨rfl, ⟨_, _, rfl⟩, by decide, ⟨[closing], _, rfl, by decide, by decide⟩,
    { closed ready with events := [{ closing with own := [], free := [offerBy 4 (.taskFault .reportLost 9)] }] }, _, _, rfl,
    rfl, by rfl, rfl, rfl, by decide⟩

/-! ### Witnesses for the engines -/

/-- The view that `withUpdate` puts at slot T0. -/
def taking (changes : List (InLine × Cond)) : View := { changes := changes, levels := changes, time := 5 }

theorem decided_of {s : State} (h : s.events = []) (j : Slot) : s.undecided j = false := by simp [State.undecided, h]

/-- T0 holds a record of this kind, out of reset and with no event open. -/
def recordOk (s : State) (P : Task → Prop) [DecidablePred P] : Bool :=
  s.inReset.isNone && s.events.isEmpty &&
    match s.task? 0 with
    | some a => decide (P a)
    | none => false

theorem record_of_ok {s : State} {P : Task → Prop} [DecidablePred P] (h : recordOk s P = true) :
    ∃ a, s.task? 0 = some a ∧ P a := by
  simp only [recordOk, Bool.and_eq_true] at h
  cases ht : s.task? 0 with
  | none => rw [ht] at h; cases h.2
  | some a => rw [ht] at h; exact ⟨a, rfl, of_decide_eq_true h.2⟩

theorem takes_of_ok {s : State} {changes : List (InLine × Cond)} {P : Task → Prop} [DecidablePred P]
    (h : recordOk s P = true) : ∃ a, TakesUpdate (withUpdate s changes) 0 (taking changes) a ∧ P a := by
  obtain ⟨a, ha, hp⟩ := record_of_ok h
  simp only [recordOk, Bool.and_eq_true, Option.isNone_iff_eq_none, List.isEmpty_iff] at h
  exact ⟨a, ⟨h.1.1, Bank.get_set_self _ _ _, ha, fun j _ => decided_of (s := withUpdate s changes) h.1.2 j⟩, hp⟩

/-- What a run in progress makes of an update of these changes works, and is a record of this kind. -/
def readsOk (changes : List (InLine × Cond)) (P : Task → Prop) [DecidablePred P] (b : Task) : Bool :=
  b.inRun &&
    match b.reads (taking changes) with
    | some a => !a.held && decide (P a)
    | none => false

theorem works_of_ok {s : State} {changes : List (InLine × Cond)} {P : Task → Prop} [DecidablePred P]
    (h : recordOk s (fun b => readsOk changes P b = true) = true) :
    ∃ a, Works (withUpdate s changes) 0 (taking changes) a ∧ P a := by
  obtain ⟨b, hb, hp⟩ := takes_of_ok (changes := changes) h
  simp only [readsOk, Bool.and_eq_true] at hp
  cases ha : b.reads (taking changes) with
  | none => rw [ha] at hp; cases hp.2
  | some a =>
    rw [ha] at hp
    simp only [Bool.and_eq_true, Bool.not_eq_true', decide_eq_true_eq] at hp
    exact ⟨a, ⟨⟨b, hb, inRun_iff.1 hp.1, ha⟩, hp.2.1⟩, hp.2.2⟩

theorem clocked_of_ok {s : State} {P : Task → Prop} [DecidablePred P]
    (h : recordOk s (fun a => a.inRun = true ∧ a.held = false ∧ a.clockDue = true ∧ P a) = true) :
    ∃ a, Clocked s 0 a ∧ P a := by
  obtain ⟨a, ha, h1, h2, h3, hp⟩ := record_of_ok h
  simp only [recordOk, Bool.and_eq_true, Option.isNone_iff_eq_none, List.isEmpty_iff] at h
  exact ⟨a, ⟨h.1.1, ha, inRun_iff.1 h1, h2, h3, fun j _ => decided_of h.1.2 j⟩, hp⟩

/-- With a command due and with none, and turns taken with an event open. -/
theorem witness_EngineEventTouchesOnlyItsOwn :
    (counter .running 2).OwnershipSound ∧ (∀ j ∈ (counter .running 2).concerned 0, (counter .running 2).undecided j = false) ∧
      (withUpdate (counter .running 2) [(5, .active)]).tasks.updates.get 0 ≠ none ∧
      (counter .running 2).tasks.updates.get 0 = none ∧ interleaved.undecided 4 = true ∧ interleaved.undecided 3 = false :=
  ⟨ownershipSound_of_ok (by decide +kernel), fun j _ => decided_of (by rfl) j, by decide +kernel, by decide +kernel, by decide,
    by decide⟩

/-- T0 with a trigger on IN2, in a state of its life cycle. -/
def triggered : Common := { plain with trigger := some { line := 2, edge := .active }, start := .trigger }

def counting (c : Common) (st : TaskState) (count : Nat) : State :=
  inState c (.eventCount countParams) st (.eventCount countParams count)

/-- At rest with and without a trigger edge, nothing due, and an earlier event that may still fault the task. -/
theorem witness_UpdatesAreTakenOnceAndIgnoredAtRest :
    (∃ a, TakesUpdate (withUpdate (counting triggered .armed 0) [(2, .inactive)]) 0 (taking [(2, .inactive)]) a ∧
        a.state = .armed ∧ (taking [(2, .inactive)]).triggerEdge a.common = false) ∧
      (∃ a, TakesUpdate (withUpdate (counting plain .idle 0) [(5, .active)]) 0 (taking [(5, .active)]) a ∧
        a.state = .idle) ∧
      ready.tasks.updates.get 0 = none ∧ ready.task? 0 = none ∧
      (∃ a, (counting plain .running 0).task? 0 = some a ∧ a.clockDue = false ∧ a.engine.expiryDue = false) ∧
      (let s := withUpdate { counter .running 2 with events := [{ closing with own := [offerBy 0 (.trainEnd 1)] }] }
        [(5, .active)]
       s.inReset = none ∧ (∃ j ∈ s.concerned 0, s.undecided j = true) ∧ s.tasks.updates.get 0 ≠ none) :=
  ⟨takes_of_ok (by decide +kernel), takes_of_ok (by decide +kernel), by decide +kernel, by decide +kernel,
    record_of_ok (by decide +kernel), by decide +kernel, ⟨0, List.mem_cons_self .., by decide +kernel⟩, by decide +kernel⟩

theorem witness_TriggerEdgeStartsAnArmedTask :
    ∃ a, TakesUpdate (withUpdate (counting triggered .armed 0) [(2, .active)]) 0 (taking [(2, .active)]) a ∧
      (taking [(2, .active)]).triggerEdge a.common = true ∧ a.state = .armed ∧ a.common.start = .trigger :=
  takes_of_ok (by decide +kernel)

/-- The gate on IN3. -/
def gated (c : Common) : Common := { c with gate := some { line := 3, openWhen := .active } }

/-- T0 held by its gate. -/
def heldBack (s : State) : State := s.mapTask 0 fun t => { t with held := true }

/-- A train that waits at its first segment, and the three policies of a running task, held and not. -/
theorem witness_TriggerEdgeInARunReleasesOrOverruns :
    (∃ a, TakesUpdate (withUpdate (train triggered .running { atClock 0 2 0 with waiting := true }) [(2, .active)]) 0
        (taking [(2, .active)]) a ∧ (taking [(2, .active)]).triggerEdge a.common = true ∧ a.state = .running ∧
      a.engine = .pulseTrain trainParams { atClock 0 2 0 with waiting := true } ∧
      (taking [(2, .active)]).clockEdge a.common = false ∧ a.common.gate = none) ∧
    (∀ policy ∈ [Policy.ignore, .restart, .fault],
      ∃ a, TakesUpdate (withUpdate (counting { triggered with policy := policy } .running 1) [(2, .active)]) 0
          (taking [(2, .active)]) a ∧
        (taking [(2, .active)]).triggerEdge a.common = true ∧ a.state = .running ∧ a.engine.waits = false ∧
        a.common.policy = policy) ∧
    ∃ a, TakesUpdate (withUpdate (heldBack (train (gated triggered) .stopping (atClock 0 2 0))) [(2, .active)]) 0
        (taking [(2, .active)]) a ∧ (taking [(2, .active)]).triggerEdge a.common = true ∧ a.state = .stopping ∧
      a.engine.waits = false ∧ a.held = true ∧ a.common.gate = some { line := 3, openWhen := .active } ∧
      (taking [(2, .active)]).changeOf 3 = none := by
  refine ⟨takes_of_ok (by decide +kernel), ?_, takes_of_ok (by decide +kernel)⟩
  intro policy h
  simp only [List.mem_cons, List.not_mem_nil, or_false] at h
  rcases h with rfl | rfl | rfl <;> exact takes_of_ok (by decide +kernel)

/-- The gate of the train on IN3 closes, opens with no other change, and stays closed under an ignored trigger edge. -/
theorem witness_GateChangeHoldsOrReleases :
    (∃ a, TakesUpdate (withUpdate (train trainCommon .running (atClock 0 2 0)) [(3, .inactive)]) 0
        (taking [(3, .inactive)]) a ∧ a.state = .running ∧ a.common.gate = some { line := 3, openWhen := .active } ∧
      (taking [(3, .inactive)]).changeOf 3 = some .inactive ∧ (taking [(3, .inactive)]).triggerEdge a.common = false ∧
      a.reads (taking [(3, .inactive)]) = some { a with held := true }) ∧
    (∃ a, TakesUpdate (withUpdate (heldBack (train trainCommon .running (atClock 0 2 0))) [(3, .active)]) 0
        (taking [(3, .active)]) a ∧ a.state = .running ∧ a.common.gate = some { line := 3, openWhen := .active } ∧
      (taking [(3, .active)]).changeOf 3 = some .active ∧ (taking [(3, .active)]).triggerEdge a.common = false ∧
      (∀ l, l ≠ 3 → (taking [(3, .active)]).changeOf l = none) ∧
      (∀ r ∈ allInRoles, (3, r) ∈ claimsOf a.common a.engine.params → r = .gate) ∧
      a.engine = .pulseTrain trainParams (atClock 0 2 0)) ∧
    ∃ a, TakesUpdate (withUpdate (heldBack (counting (gated triggered) .running 1)) [(2, .active), (5, .active)]) 0
        (taking [(2, .active), (5, .active)]) a ∧ a.state = .running ∧
      a.reads (taking [(2, .active), (5, .active)]) = some { a with overrunCount := 1 } ∧ a.held = true :=
  ⟨takes_of_ok (by decide +kernel), takes_of_ok (by decide +kernel), takes_of_ok (by decide +kernel)⟩

/-- The train at each of its boundaries: in a segment, at the end of segment 0, of a loop, and of the last loop; an update
without its clock edge, and one that releases the WAIT and carries the clock edge (R77). -/
theorem witness_PulseTrainPlaysItsSegments :
    (∀ x ∈ [atClock 0 2 0, atClock 0 1 0, atClock 1 1 0, atClock 1 1 1, { atClock 0 2 0 with waiting := true }],
      ∃ a, Clocked (withClock (train plain .running x)) 0 a ∧ a.engine = .pulseTrain trainParams x) ∧
      (∃ a, Works (withUpdate (train (gated plain) .running (atClock 0 2 0)) [(3, .active)]) 0 (taking [(3, .active)]) a ∧
        a.engine = .pulseTrain trainParams (atClock 0 2 0) ∧ (taking [(3, .active)]).clockEdge a.common = false) ∧
      (∃ a, Works
          (withUpdate (train { triggered with clock := .line 4 } .running { atClock 0 2 0 with waiting := true })
            [(2, .active), (4, .active)]) 0 (taking [(2, .active), (4, .active)]) a ∧
        (taking [(2, .active), (4, .active)]).clockEdge a.common = true ∧
        a.engine = .pulseTrain trainParams (atClock 0 2 0)) ∧
      (withClock (train plain .running (atClock 1 1 1))).OwnershipSound ∧
      (withClock (train plain .running (atClock 1 1 1))).segments 0 =
        [{ level := .active, duration := 2, reportEnd := true, wait := false },
         { level := .inactive, duration := 1, reportEnd := false, wait := false }] := by
  refine ⟨?_, works_of_ok (by decide +kernel), works_of_ok (by decide +kernel), ownershipSound_of_ok (by decide +kernel),
    by decide +kernel⟩
  intro x hx
  simp only [List.mem_cons, List.not_mem_nil, or_false] at hx
  rcases hx with rfl | rfl | rfl | rfl | rfl <;> exact clocked_of_ok (by decide +kernel)

/-- Below the limit and at it; a trigger edge that is ignored, and a gate that opens, with the SIGNAL edge. -/
theorem witness_EventCountRunsToItsLimit :
    (∀ count ∈ [1, 2], ∃ a, Works (withUpdate (counting plain .running count) [(5, .active)]) 0 (taking [(5, .active)]) a ∧
      a.engine = .eventCount countParams count) ∧
      (∃ a, Works (withUpdate (counting triggered .running 2) [(2, .active), (5, .active)]) 0
          (taking [(2, .active), (5, .active)]) a ∧ a.engine = .eventCount countParams 2 ∧ a.overrunCount = 1) ∧
      (∃ a, Works (withUpdate (heldBack (counting (gated plain) .running 1)) [(3, .active), (5, .active)]) 0
          (taking [(3, .active), (5, .active)]) a ∧ a.engine = .eventCount countParams 1) ∧
      (taking [(5, .active)]).edge 5 .active = true ∧ (taking [(5, .inactive)]).edge 5 .active = false ∧
      1 + 1 < countParams.limit ∧ 2 + 1 = countParams.limit ∧ (counting plain .running 2).OwnershipSound ∧
      ∃ a, Clocked (withClock (counting plain .running 2)) 0 a ∧ a.engine = .eventCount countParams 2 := by
  refine ⟨?_, works_of_ok (by decide +kernel), works_of_ok (by decide +kernel), by decide, by decide, by decide, by decide,
    ownershipSound_of_ok (by decide +kernel), clocked_of_ok (by decide +kernel)⟩
  intro count h
  simp only [List.mem_cons, List.not_mem_nil, or_false] at h
  rcases h with rfl | rfl <;> exact works_of_ok (by decide +kernel)

/-- A SPAN of IN5 with its task clock on IN4, in RUNNING. -/
def spanning (mode : SpanMode) (r : SpanRun) : State :=
  inState { plain with clock := .line 4 } (.span { signal := 5, mode := mode }) .running
    (.span { signal := 5, mode := mode } r)

def opened (count : Nat) : SpanRun := { phase := .counting, count := count, spanStart := 3 }

/-- Awaiting, open below the limit, and one clock below overrange, in both modes. -/
theorem witness_SpanEdgesOpenCountAndClose :
    (∀ r ∈ [{ phase := .awaiting, count := 0, spanStart := 0 }, opened 0, opened 4294967293],
      ∃ a, Works (withUpdate (spanning .pulse r) [(4, .active), (5, .inactive)]) 0
        (taking [(4, .active), (5, .inactive)]) a ∧ a.engine = .span { signal := 5, mode := .pulse } r) ∧
      (∃ a, Works (withUpdate (spanning .period (opened 7)) [(5, .active)]) 0 (taking [(5, .active)]) a ∧
        a.state = .running) ∧
      (taking [(4, .active), (5, .inactive)]).edge 5 .inactive = true ∧ 4294967293 + 1 < 4294967295 ∧
      (spanning .pulse (opened 0)).OwnershipSound := by
  refine ⟨?_, works_of_ok (by decide +kernel), by decide, by decide, ownershipSound_of_ok (by decide +kernel)⟩
  intro r h
  simp only [List.mem_cons, List.not_mem_nil, or_false] at h
  rcases h with rfl | rfl | rfl <;> exact works_of_ok (by decide +kernel)

/-- A task clock below overrange and at it, of the TIMEBASE and of the clock line. -/
theorem witness_SpanClocksCountToOverrange :
    (∀ r ∈ [{ phase := .awaiting, count := 0, spanStart := 0 }, opened 4294967293, opened 4294967294],
      ∃ a, Clocked (withClock (inState plain (.span { signal := 5, mode := .pulse }) .running
        (.span { signal := 5, mode := .pulse } r))) 0 a ∧ a.engine = .span { signal := 5, mode := .pulse } r) ∧
      (∃ a, Works (withUpdate (spanning .pulse (opened 4294967294)) [(4, .active)]) 0 (taking [(4, .active)]) a ∧
        (taking [(4, .active)]).clockEdge a.common = true) ∧
      (spanning .pulse (opened 4294967294)).OwnershipSound := by
  refine ⟨?_, works_of_ok (by decide +kernel), ownershipSound_of_ok (by decide +kernel)⟩
  intro r h
  simp only [List.mem_cons, List.not_mem_nil, or_false] at h
  rcases h with rfl | rfl | rfl <;> exact clocked_of_ok (by decide +kernel)

/-- A WINDOW_COUNT of IN5, with its window on IN6 or lasting 3 clocks. -/
def windowing (source : WindowSource) (r : WindowRun) : State :=
  inState plain (.windowCount { signal := 5, source := source }) .running (.windowCount { signal := 5, source := source } r)

/-- Awaiting, open, one edge below the full count, and one clock before the duration. -/
theorem witness_WindowCountsUntilItCloses :
    (∀ r ∈ [({ phase := .awaiting, count := 0, length := 0 } : WindowRun), { phase := .counting, count := 0, length := 0 },
        { phase := .counting, count := 4294967294, length := 4294967294 }],
      ∃ a, Works (withUpdate (windowing (.line 6) r) [(5, .active), (6, .inactive)]) 0
        (taking [(5, .active), (6, .inactive)]) a ∧ a.engine = .windowCount { signal := 5, source := .line 6 } r) ∧
      (∃ a, Clocked (withClock (windowing (.duration 3) { phase := .counting, count := 1, length := 2 })) 0 a ∧
        a.engine = .windowCount { signal := 5, source := .duration 3 } { phase := .counting, count := 1, length := 2 }) ∧
      (taking [(6, .active)]).edge 6 .active = true ∧ (taking [(6, .inactive)]).edge 6 .inactive = true ∧
      (windowing (.duration 3) { phase := .counting, count := 1, length := 2 }).OwnershipSound := by
  refine ⟨?_, clocked_of_ok (by decide +kernel), by decide, by decide, ownershipSound_of_ok (by decide +kernel)⟩
  intro r h
  simp only [List.mem_cons, List.not_mem_nil, or_false] at h
  rcases h with rfl | rfl | rfl <;> exact works_of_ok (by decide +kernel)

/-- T0 decoding the axis, and its task clock. -/
def decoding (r : PositionRun) : State := inState plain (.position axis) .running (.position axis r)

def near : PositionRun := { position := 119, phaseErrors := 0, indexSeen := false, indexLevel := false }

theorem witness_PositionTakesAnUpdateWhole :
    (∃ a, Works (withUpdate (decoding near) [(1, .active)]) 0 (taking [(1, .active)]) a ∧ a.state = .running ∧
        a.engine = .position axis near) ∧
      ∃ a, Clocked (withClock (decoding near)) 0 a ∧ a.engine = .position axis near :=
  ⟨works_of_ok (by decide +kernel), clocked_of_ok (by decide +kernel)⟩

/-- Kicks at elapsed 1 and 2 with minimum 2 and with the expiry due, and a clock edge at elapsed 3 with maximum 4. -/
theorem witness_KickIsAcceptedEarlyOrLate :
    (∀ r ∈ [{ atStart with elapsed := 1 }, { atStart with elapsed := 2 }, { atStart with elapsed := 3 }],
      ∃ a, Works (withUpdate (watching { plain with clock := .line 4 } .running r) [(5, .active)]) 0 (taking [(5, .active)]) a ∧
        a.engine = .deadline watch r ∧ r.elapsed < watch.maximum) ∧
      (∃ a, Works (withUpdate (watching plain .running { atStart with elapsed := 4, expiryDue := true }) [(5, .active)]) 0
          (taking [(5, .active)]) a ∧ a.engine = .deadline watch { atStart with elapsed := 4, expiryDue := true } ∧
        (taking [(5, .active)]).clockEdge a.common = false) ∧
      watch.minimum < watch.maximum ∧
      (taking [(5, .active)]).edge 5 .active = true ∧ (taking [(4, .active)]).edge 5 .active = false ∧
      (taking [(4, .active)]).clockEdge { plain with clock := .line 4 } = true ∧
      (watching { plain with clock := .line 4 } .running { atStart with elapsed := 3 }).OwnershipSound := by
  refine ⟨?_, works_of_ok (by decide +kernel), by decide, by decide, by decide, by decide,
    ownershipSound_of_ok (by decide +kernel)⟩
  intro r h
  simp only [List.mem_cons, List.not_mem_nil, or_false] at h
  rcases h with rfl | rfl | rfl <;> exact works_of_ok (by decide +kernel)

theorem witness_ExpiryFallsAtTheMaximumAndIsLate :
    (∀ r ∈ [{ atStart with elapsed := 2 }, { atStart with elapsed := 3 }, { atStart with elapsed := 4, expiryDue := true }],
      ∃ a, Clocked (withClock (watching plain .running r)) 0 a ∧ a.engine = .deadline watch r) ∧
      (∃ a, (watching plain .running { atStart with elapsed := 4, expiryDue := true }).task? 0 = some a ∧
        a.state = .running ∧ a.engine = .deadline watch { atStart with elapsed := 4, expiryDue := true }) ∧
      (∀ j, (watching plain .running { atStart with elapsed := 4, expiryDue := true }).undecided j = false) ∧
      (watching plain .running { atStart with elapsed := 4, expiryDue := true }).inReset = none ∧
      (watching plain .running { atStart with elapsed := 4, expiryDue := true }).OwnershipSound := by
  refine ⟨?_, record_of_ok (by decide +kernel), fun j => decided_of (by rfl) j, by decide +kernel,
    ownershipSound_of_ok (by decide +kernel)⟩
  intro r h
  simp only [List.mem_cons, List.not_mem_nil, or_false] at h
  rcases h with rfl | rfl | rfl <;> exact clocked_of_ok (by decide +kernel)

/-! ### Witnesses for what every step keeps -/

theorem witness_EveryStepKeepsTheReportQueueSound :
    (queued ready losing).reports.Sound ∧ ∃ t, step { queued ready losing with pending := [.tickBoundary] } = .next t :=
  ⟨queueSound_of_ok (by decide +kernel), _, rfl⟩

/-- A link in the middle of a frame, with a response queued. -/
theorem witness_EveryStepKeepsTheLinkSound :
    Link.Sound
      { ready.link with receiver := .body 1 [0x11] (crcOf [1, 0x11]), responses := [noticeFrame .oversize] } ∧
      ∃ t, step { ready with pending := [.rxByte 0] } = .next t := by
  refine ⟨⟨⟨by decide, by decide, by decide +kernel⟩, by decide, by decide, by decide, by decide, by decide, by decide,
    ?_, ?_, ?_⟩, _, rfl⟩
  · intro f h; cases h
  · intro f h; cases h
  · constructor
    · intro h; cases h
    · rintro (⟨f, hf, h⟩ | ⟨t, ht, -⟩)
      · obtain rfl : f = noticeFrame .oversize := by simpa using hf
        cases h
      · cases ht

/-- The store with one program of two segments, named by one task. -/
theorem witness_EveryStepKeepsTheSegmentStoreSound :
    (train plain .idle (atClock 0 2 0)).StoreSound ∧
      ∃ t, step { train plain .idle (atClock 0 2 0) with pending := [.getProgram] } = .next t := by
  refine ⟨⟨?_, ?_, ?_, ?_, ?_, ?_⟩, _, rfl⟩ <;> decide +kernel

/-- A train at rest, its WAVE line idle. -/
theorem witness_EveryStepKeepsClaimsOwnersAndLevelsSound :
    let s := train plain .idle (atClock 0 2 0)
    s.OwnershipSound ∧ s.StoreSound ∧ s.OutputsSound ∧ s.inReset = none ∧
      ∃ t, step { s with pending := [.tickBoundary] } = .next t ∧ t.inReset = none := by
  intro s
  have hl : ∀ l, (s.lines.outputs.get l).level = (s.lines.outputs.get l).idle ∧ (s.lines.outputs.get l).markEnd = none := by
    decide +kernel
  have hk : ∀ k : Slot, (s.task? k).all (fun t => !t.inRun) = true := by decide +kernel
  refine ⟨ownershipSound_of_ok (by decide +kernel), witness_EveryStepKeepsTheSegmentStoreSound.1,
    ⟨fun l _ => (hl l).1, fun l h => absurd (hl l).2 h, fun l _ _ => ?_, fun l _ _ _ _ _ => (hl l).1, ?_, ?_⟩, by decide +kernel,
    _, rfl, by decide +kernel⟩
  · exact ⟨fun h => absurd (hl l).1 h, fun h => absurd (hl l).2 h⟩
  · intro l k t p r g _ ht hr
    have := hk k
    rw [ht] at this
    simp [hr] at this
  · intro l k t p r _ ht he
    have h0 : ∀ k : Slot, k ≠ 0 → s.task? k = none := by decide +kernel
    by_cases h : k = 0
    · subst h
      obtain rfl := Option.some.inj ht.symm
      cases he
    · rw [h0 k h] at ht
      cases ht

theorem witness_EveryStepKeepsTheTaskRecordsSound :
    (withClock (counter .running 2)).StoreSound ∧ (withClock (counter .running 2)).TasksSound ∧
      ∃ t, step { withClock (counter .running 2) with pending := [.taskClock 0 atOnce] } = .next t := by
  refine ⟨⟨?_, ?_, ?_, ?_, ?_, ?_⟩, ?_, _, rfl⟩
  · decide +kernel
  · decide +kernel
  · decide +kernel
  · decide +kernel
  · decide +kernel
  · decide +kernel
  intro k t h
  by_cases hk : k = 0
  · subst hk
    obtain rfl := Option.some.inj h.symm
    refine ⟨by decide +kernel, by decide +kernel, by decide +kernel, Nat.zero_lt_one, fun _ => ⟨by decide +kernel, 1, rfl⟩,
      by decide +kernel, ?_⟩
    exact ⟨by decide, by decide, fun _ => by decide⟩
  · have : ∀ k : Slot, k ≠ 0 → (withClock (counter .running 2)).task? k = none := by decide +kernel
    rw [this k hk] at h
    cases h

/-- The greatest filter with its greatest candidate, an update not yet taken and an open event. -/
theorem witness_EveryStepKeepsConditionersAndEventsSound :
    let i : Input := { Input.reset with filter := 63, candidate := some 63 }
    let s : State :=
      { withUpdate { interleaved with timebase := { interleaved.timebase with time := 5 } } [(5, .active)] with
        lines := { ready.lines with inputs := ready.lines.inputs.set 4 i }
        events := [{ closing with time := 5 }] }
    s.ConditionersSound ∧ s.EventsSound ∧ ∃ t, step { s with pending := [.taskUpdate 0 atOnce] } = .next t := by
  intro i s
  refine ⟨?_, ⟨?_, ?_, ?_, fun h => absurd rfl h⟩, _, rfl⟩
  · intro l
    by_cases h : l = 4
    · subst h
      refine ⟨by decide +kernel, fun n hn => ?_⟩
      obtain rfl := Option.some.inj hn
      decide +kernel
    · have : ∀ l : InLine, l ≠ 4 → (s.lines.inputs.get l).filter ≤ 63 ∧ (s.lines.inputs.get l).candidate = none := by
        decide +kernel
      exact ⟨(this l h).1, fun n hn => by rw [(this l h).2] at hn; cases hn⟩
  · have : ∀ k : Slot, (s.tasks.updates.get k).all (fun v => v.time == s.timebase.time) = true := by decide +kernel
    intro k v hv
    have h := this k
    rw [hv] at h
    simpa using h
  · decide +kernel
  · decide +kernel

theorem witness_EveryStepKeepsFramesWithinTheirLength :
    ({ counter .running 2 with link := { ready.link with responses := [noticeFrame .oversize] } } : State).FramesFit ∧
      ∃ t, step { ready with pending := [.idleArbiterChoice] } = .next t := by
  refine ⟨⟨by decide +kernel, ?_, ?_, ?_⟩, _, rfl⟩
  · intro f hf
    obtain rfl : f = noticeFrame .oversize := by simpa using hf
    decide
  · intro f h; cases h
  · intro t h; cases h

theorem witness_OnlyTheNamedCommandsChangeWhatTheyOwn :
    (∃ t, exec .getTime (counter .running 2) = .next t) ∧ (∀ x, Instr.getTime ≠ .fullReset x) ∧
      ∀ x, Instr.getTime ≠ .hardResetEnd x :=
  ⟨⟨_, rfl⟩, nofun, nofun⟩

end Sys2Proof.Tests
end

section
/-! The proofs of the line unit's two configuration requests (R38, R41): how a served request shows in the state, what the
operand readers and the two `serve` functions answer in each case, and the obligations themselves. -/

namespace Sys2Proof.Machine

variable {s e : State} {q : Request} {f : Frame} {rest : List Frame} {a b c : Byte}

/-! ### Serving and answering -/

/-- What a request leaves: `e` answered, where serving leaves `e` without the request and `e` has the link it found. -/
theorem takeRequest_served {r : Reply} {serve : Frame → State → State × Reply} (h : Taking s q f rest)
    (hlink : e.link = s.link) (hserve : serve f s.popRequest = (e.popRequest, r)) :
    takeRequest q serve s = e.answered rest f r.status r.data := by
  have hpop : e.popRequest = { e with link := { e.link with requests := rest } } := by
    simp [State.popRequest, hlink, h.oldest]
  rw [takeRequest_taking h, hserve, respond_eq_answered r (by rw [hpop]), hpop]
  rfl

/-- A request whose serving refuses it is answered by the status alone (R183). -/
theorem takeRequest_refused {st : Status} {serve : Frame → State → State × Reply} (h : Taking s q f rest)
    (hserve : serve f s.popRequest = refuse s.popRequest st) : takeRequest q serve s = s.answered rest f st [] :=
  takeRequest_served h rfl hserve

/-- A request whose serving accepts it without data is answered OK over the state its effects leave (R184). -/
theorem takeRequest_accepted {serve : Frame → State → State × Reply} (h : Taking s q f rest) (hlink : e.link = s.link)
    (hserve : serve f s.popRequest = (e.popRequest, Reply.ok)) : takeRequest q serve s = e.answered rest f .ok [] :=
  takeRequest_served h hlink hserve

theorem withLen_of_length {n : Nat} (serve : State × Reply) (h : f.payload.length = n) : withLen n f s serve = serve :=
  if_pos h

theorem withLen_badLength {n : Nat} (serve : State × Reply) (h : f.payload.length ≠ n) :
    withLen n f s serve = refuse s .badLength :=
  if_neg h

/-! ### The bytes of a polarity and of a level (R194) -/

theorem polarityOf?_eq_none (hb : 1 < b.toNat) : polarityOf? b = none := by
  rw [polarityOf?, if_neg (by bv_omega), if_neg (by bv_omega)]

theorem polarityOf?_of_le_one (hb : b.toNat ≤ 1) :
    polarityOf? b = some (if b = 0 then .activeHigh else .activeLow) := by
  by_cases h0 : b = 0
  · rw [polarityOf?, if_pos h0, if_pos h0]
  · rw [polarityOf?, if_neg h0, if_neg h0, if_pos (by bv_omega)]

theorem levelOf?_eq_none (hb : 1 < b.toNat) : levelOf? b = none := by
  rw [levelOf?, if_neg (by bv_omega), if_neg (by bv_omega)]

theorem levelOf?_of_le_one (hb : b.toNat ≤ 1) : levelOf? b = some (if b = 0 then .low else .high) := by
  by_cases h0 : b = 0
  · rw [levelOf?, if_pos h0, if_pos h0]
  · rw [levelOf?, if_neg h0, if_neg h0, if_pos (by bv_omega)]

/-! ### CONFIG_INPUT (R38) -/

theorem exec_configInput (s : State) : exec .configInput s = .next (takeRequest .configInput serveConfigInput s) := rfl

theorem inputConfigOf?_no_line (hl : finOf? 12 a.toNat = none) : inputConfigOf? [a, b, c] = none := by
  simp [inputConfigOf?, byteAt, inLineOf?, hl]

theorem inputConfigOf?_out_of_range (h : 1 < b.toNat ∨ 63 < c.toNat) : inputConfigOf? [a, b, c] = none := by
  rcases h with hb | hc
  · simp [inputConfigOf?, byteAt, polarityOf?_eq_none hb]
  · simp [inputConfigOf?, byteAt, require, Nat.not_le_of_lt hc]

theorem inputConfigOf?_in_range {l : InLine} (hl : finOf? 12 a.toNat = some l) (hb : b.toNat ≤ 1) (hc : c.toNat ≤ 63) :
    inputConfigOf? [a, b, c] = some (l, if b = 0 then .activeHigh else .activeLow, c.toNat) := by
  simp [inputConfigOf?, byteAt, inLineOf?, hl, polarityOf?_of_le_one hb, require, hc]

theorem serveConfigInput_badParam (hp : f.payload = [a, b, c]) (h : inputConfigOf? [a, b, c] = none) :
    serveConfigInput f s = refuse s .badParam := by
  rw [serveConfigInput, withLen_of_length _ (by rw [hp]; rfl), hp, h]

theorem serveConfigInput_of_config {l : InLine} {p : Polarity} {n : Nat} (hp : f.payload = [a, b, c])
    (h : inputConfigOf? [a, b, c] = some (l, p, n)) :
    serveConfigInput f s =
      if (s.lines.inputs.get l).claims = [] then (s.onInput l fun i => i.configure p n, Reply.ok)
      else refuse s .lineInUse := by
  rw [serveConfigInput, withLen_of_length _ (by rw [hp]; rfl), hp, h]
  simp only [List.isEmpty_iff]

/-- A raw level is ACTIVE exactly where it is the active level of the polarity (R32). -/
theorem condOf_eq_ite (p : Polarity) (raw : Level) :
    p.condOf raw = if raw = p.levelOf .active then .active else .inactive := by
  cases p <;> cases raw <;> rfl

theorem levelOf_active_ite (x : Prop) [Decidable x] :
    (if x then Polarity.activeHigh else .activeLow).levelOf .active = if x then .high else .low :=
  apply_ite (Polarity.levelOf · .active) x _ _

/-- Settles O17, by the checks of CONFIG_INPUT in their order: length, line, polarity and filter, claims (R38). -/
theorem configInputDerivesTheLevelAfresh : Obligations.ConfigInputDerivesTheLevelAfresh := by
  intro s f rest h
  rw [exec_configInput]
  congr 1
  split
  next a b c hp =>
    split
    next hl => exact takeRequest_refused h (serveConfigInput_badParam hp (inputConfigOf?_no_line hl))
    next l hl =>
      split
      next hrange => exact takeRequest_refused h (serveConfigInput_badParam hp (inputConfigOf?_out_of_range hrange))
      next hrange =>
        obtain ⟨hb, hc⟩ := not_or.1 hrange
        have hserve := serveConfigInput_of_config (s := s.popRequest) hp
          (inputConfigOf?_in_range hl (Nat.le_of_not_lt hb) (Nat.le_of_not_lt hc))
        split
        next hclaims => exact takeRequest_refused h (hserve.trans (if_neg hclaims))
        next hclaims =>
          rw [← levelOf_active_ite, ← condOf_eq_ite]
          exact takeRequest_accepted h rfl (hserve.trans (if_pos (not_not.1 hclaims)))
  next hp =>
    have hlen : f.payload.length ≠ 3 := fun hlen =>
      let ⟨a, b, c, habc⟩ := List.length_eq_three.1 hlen
      hp a b c habc
    exact takeRequest_refused h (withLen_badLength _ hlen)

/-! ### CONFIG_OUTPUT (R41) -/

theorem exec_configOutput (s : State) : exec .configOutput s = .next (takeRequest .configOutput serveConfigOutput s) := rfl

theorem serveConfigOutput_badParam (hp : f.payload = [a, b]) (h : finOf? 8 a.toNat = none ∨ 1 < b.toNat) :
    serveConfigOutput f s = refuse s .badParam := by
  rw [serveConfigOutput, withLen_of_length _ (by rw [hp]; rfl), hp]
  rcases h with hl | hb
  · simp [byteAt, outLineOf?, hl]
  · simp [byteAt, levelOf?_eq_none hb]

theorem serveConfigOutput_in_range {l : OutLine} (hp : f.payload = [a, b]) (hl : finOf? 8 a.toNat = some l)
    (hb : b.toNat ≤ 1) :
    serveConfigOutput f s =
      if (s.lines.outputs.get l).owner = .none then
        (s.onOutput l fun o => o.configure (if b = 0 then .low else .high), Reply.ok)
      else refuse s .lineInUse := by
  rw [serveConfigOutput, withLen_of_length _ (by rw [hp]; rfl), hp]
  simp only [byteAt, outLineOf?, List.getD_cons_zero, List.getD_cons_succ, hl, levelOf?_of_le_one hb]

/-- Settles O18, by the checks of CONFIG_OUTPUT in their order: length, line, level, owner (R41). -/
theorem configOutputDrivesTheIdleLevel : Obligations.ConfigOutputDrivesTheIdleLevel := by
  intro s f rest h
  rw [exec_configOutput]
  congr 1
  split
  next a b hp =>
    split
    next hl => exact takeRequest_refused h (serveConfigOutput_badParam hp (.inl hl))
    next l hl =>
      split
      next hb => exact takeRequest_refused h (serveConfigOutput_badParam hp (.inr hb))
      next hb =>
        have hserve := serveConfigOutput_in_range (s := s.popRequest) hp hl (Nat.le_of_not_lt hb)
        split
        next howner => exact takeRequest_refused h (hserve.trans (if_neg howner))
        next howner => exact takeRequest_accepted h rfl (hserve.trans (if_pos (not_not.1 howner)))
  next hp =>
    have hlen : f.payload.length ≠ 2 := fun hlen =>
      let ⟨a, b, hab⟩ := List.length_eq_two.1 hlen
      hp a b hab
    exact takeRequest_refused h (withLen_badLength _ hlen)

end Sys2Proof.Machine
end

section
/-! The proofs of the segment store's requests (R65 to R68): what the length check, the operand reader and the three `serve`
functions answer in each case, and the obligation itself. -/

namespace Sys2Proof.Machine

variable {s : State} {q : Request} {f : Frame} {rest : List Frame} {a final n : Byte} {body : List Byte} {p : Prog}
  {sealing : Bool} {segments : List Segment} {serve : Frame → State → State × Reply}

/-! ### The operands of LOAD_PROGRAM and APPEND_PROGRAM (R65, R196, R198) -/

theorem segmentsLenOk_of_short (h : f.payload.length < 3) : segmentsLenOk f.payload = false := by
  simp [segmentsLenOk, Nat.not_le_of_lt h]

theorem segmentsLenOk_cons (hp : f.payload = a :: final :: n :: body) :
    segmentsLenOk f.payload = true ↔ body.length = 4 * n.toNat := by
  simp [segmentsLenOk, hp, byteAt]
  omega

theorem length_of_segmentsOf? {m : Nat} {b : List Byte} (h : segmentsOf? m b = some segments) : segments.length = m := by
  induction m generalizing b segments with
  | zero =>
    obtain rfl := Option.some.inj h
    rfl
  | succ m ih =>
    rw [segmentsOf?] at h
    split at h
    next g tail hg htail =>
      obtain rfl := Option.some.inj h
      rw [List.length_cons, ih htail]
    next => cases h

theorem loadOf?_eq_none
    (h : 7 < a.toNat ∨ n.toNat = 0 ∨ 28 < n.toNat ∨ segmentsOf? n.toNat body = none) :
    loadOf? (a :: final :: n :: body) = none := by
  rcases h with ha | h0 | h28 | hs
  · simp [loadOf?, byteAt, progOf?, finOf?_eq_none.2 ha]
  · simp [loadOf?, byteAt, require, h0]
  · simp [loadOf?, byteAt, require, Config.maxBatch, Nat.not_le_of_lt h28]
  · simp [loadOf?, byteAt, hs]

theorem loadOf?_in_range (ha : a.toNat = p.val) (h1 : 1 ≤ n.toNat) (h28 : n.toNat ≤ 28)
    (hs : segmentsOf? n.toNat body = some segments) :
    loadOf? (a :: final :: n :: body) = some (p, looseFlag final, segments) := by
  simp [loadOf?, byteAt, progOf?, finOf?_eq_some.2 ha, require, Config.maxBatch, h1, h28, hs]

theorem progStateOf_looseFlag (final : Byte) :
    progStateOf (looseFlag final) = if final = 0 then .loading else .sealed := by
  by_cases h : final = 0 <;> simp [progStateOf, looseFlag, h]

/-! ### The checks that LOAD_PROGRAM and APPEND_PROGRAM share (R65) -/

theorem exec_loadProgram (s : State) : exec .loadProgram s = .next (takeRequest .loadProgram serveLoadProgram s) := rfl

theorem exec_appendProgram (s : State) :
    exec .appendProgram s = .next (takeRequest .appendProgram serveAppendProgram s) := rfl

/-- Either command is the taking of a request by its own `serve` function. -/
theorem exec_batch {c : Instr}
    (hc : (c = .loadProgram ∧ Taking s .loadProgram f rest) ∨ (c = .appendProgram ∧ Taking s .appendProgram f rest)) :
    ∃ q serve, (serve = serveLoadProgram ∨ serve = serveAppendProgram) ∧ Taking s q f rest ∧
      exec c s = .next (takeRequest q serve s) := by
  rcases hc with ⟨rfl, h⟩ | ⟨rfl, h⟩
  · exact ⟨_, _, .inl rfl, h, exec_loadProgram s⟩
  · exact ⟨_, _, .inr rfl, h, exec_appendProgram s⟩

theorem serveBatch_badLength (hserve : serve = serveLoadProgram ∨ serve = serveAppendProgram)
    (hlen : ¬segmentsLenOk f.payload = true) : serve f s = refuse s .badLength := by
  rcases hserve with rfl | rfl <;> exact if_neg hlen

theorem serveBatch_badParam (hserve : serve = serveLoadProgram ∨ serve = serveAppendProgram)
    (hlen : segmentsLenOk f.payload = true) (hload : loadOf? f.payload = none) :
    serve f s = refuse s .badParam := by
  rcases hserve with rfl | rfl
  · rw [serveLoadProgram, if_pos hlen, hload]
  · rw [serveAppendProgram, if_pos hlen, hload]

/-! ### LOAD_PROGRAM (R66) -/

theorem serveLoadProgram_of_batch (hlen : segmentsLenOk f.payload = true)
    (hload : loadOf? f.payload = some (p, sealing, segments)) :
    serveLoadProgram f s =
      if 0 < (s.programs.get p).refCount then refuse s .programInUse
      else if s.freeCells + (s.programs.get p).segments.length < segments.length then refuse s .noSpace
      else (s.onProgram p (Program.load sealing segments), Reply.ok) := by
  rw [serveLoadProgram, if_pos hlen, hload]

theorem exec_loadProgram_of_batch (h : Taking s .loadProgram f rest) (hlen : segmentsLenOk f.payload = true)
    (hload : loadOf? f.payload = some (p, sealing, segments)) :
    exec .loadProgram s = .next
      (if 0 < (s.programs.get p).refCount then s.answered rest f .programInUse []
       else if s.freeCells + (s.programs.get p).segments.length < segments.length then s.answered rest f .noSpace []
       else (s.onProgram p (Program.load sealing segments)).answered rest f .ok []) := by
  have hserve := serveLoadProgram_of_batch (s := s.popRequest) hlen hload
  rw [exec_loadProgram]
  congr 1
  split
  next hused => exact takeRequest_refused h (hserve.trans (if_pos hused))
  next hused =>
    replace hserve := hserve.trans (if_neg hused)
    split
    next hfull => exact takeRequest_refused h (hserve.trans (if_pos hfull))
    next hfull => exact takeRequest_accepted h rfl (hserve.trans (if_neg hfull))

/-! ### APPEND_PROGRAM (R67) -/

theorem serveAppendProgram_of_batch (hlen : segmentsLenOk f.payload = true)
    (hload : loadOf? f.payload = some (p, sealing, segments)) :
    serveAppendProgram f s =
      if (s.programs.get p).state ≠ .loading then refuse s .badState
      else if Config.maxProgram < (s.programs.get p).segments.length + segments.length then refuse s .badParam
      else if s.freeCells < segments.length then refuse s .noSpace
      else (s.onProgram p (Program.extend sealing segments), Reply.ok) := by
  rw [serveAppendProgram, if_pos hlen, hload]

theorem exec_appendProgram_of_batch (h : Taking s .appendProgram f rest) (hlen : segmentsLenOk f.payload = true)
    (hload : loadOf? f.payload = some (p, sealing, segments)) :
    exec .appendProgram s = .next
      (if (s.programs.get p).state ≠ .loading then s.answered rest f .badState []
       else if Config.maxProgram < (s.programs.get p).segments.length + segments.length then
         s.answered rest f .badParam []
       else if s.freeCells < segments.length then s.answered rest f .noSpace []
       else (s.onProgram p (Program.extend sealing segments)).answered rest f .ok []) := by
  have hserve := serveAppendProgram_of_batch (s := s.popRequest) hlen hload
  rw [exec_appendProgram]
  congr 1
  split
  next hstate => exact takeRequest_refused h (hserve.trans (if_pos hstate))
  next hstate =>
    replace hserve := hserve.trans (if_neg hstate)
    split
    next hlong => exact takeRequest_refused h (hserve.trans (if_pos hlong))
    next hlong =>
      replace hserve := hserve.trans (if_neg hlong)
      split
      next hfull => exact takeRequest_refused h (hserve.trans (if_pos hfull))
      next hfull => exact takeRequest_accepted h rfl (hserve.trans (if_neg hfull))

/-! ### ERASE_PROGRAM (R68) -/

theorem exec_eraseProgram (s : State) : exec .eraseProgram s = .next (takeRequest .eraseProgram serveEraseProgram s) := rfl

theorem serveEraseProgram_no_program (hp : f.payload = [a]) (ha : finOf? 8 a.toNat = none) :
    serveEraseProgram f s = refuse s .badParam := by
  rw [serveEraseProgram, withLen_of_length _ (by rw [hp]; rfl), hp]
  simp [byteAt, progOf?, ha]

theorem serveEraseProgram_of_program (hp : f.payload = [a]) (ha : finOf? 8 a.toNat = some p) :
    serveEraseProgram f s =
      if 0 < (s.programs.get p).refCount then refuse s .programInUse else (s.onProgram p Program.erase, Reply.ok) := by
  rw [serveEraseProgram, withLen_of_length _ (by rw [hp]; rfl), hp]
  simp [byteAt, progOf?, ha]

/-- Settles O20, by the checks of the three requests in their order: the length; the program, the batch and its segments;
then what each asks of the program and of the pool (R65 to R68). -/
theorem programsAreLoadedExtendedAndErased : Obligations.ProgramsAreLoadedExtendedAndErased := by
  intro s f rest
  refine ⟨fun h => ?erase, fun c hc => ?refused, fun a final n body p segments hp hbody ha h1 h28 hs => ?served⟩
  case erase =>
    rw [exec_eraseProgram]
    congr 1
    split
    next b hp =>
      split
      next hb => exact takeRequest_refused h (serveEraseProgram_no_program hp hb)
      next p hb =>
        have hserve := serveEraseProgram_of_program (s := s.popRequest) hp hb
        split
        next hused => exact takeRequest_refused h (hserve.trans (if_pos hused))
        next hused => exact takeRequest_accepted h rfl (hserve.trans (if_neg hused))
    next hp =>
      have hlen : f.payload.length ≠ 1 := fun hlen =>
        let ⟨b, hb⟩ := List.length_eq_one_iff.1 hlen
        hp b hb
      exact takeRequest_refused h (withLen_badLength _ hlen)
  case refused =>
    obtain ⟨q, serve, hserve, h, hexec⟩ := exec_batch hc
    rw [hexec]
    refine ⟨fun hshort => ?_, fun a final n body hp => ⟨fun hbody => ?_, fun hbody hbad => ?_⟩⟩
    · rw [takeRequest_refused h (serveBatch_badLength hserve (by simp [segmentsLenOk_of_short hshort]))]
    · rw [takeRequest_refused h (serveBatch_badLength hserve (mt (segmentsLenOk_cons hp).1 hbody))]
    · rw [takeRequest_refused h
        (serveBatch_badParam hserve ((segmentsLenOk_cons hp).2 hbody) (hp ▸ loadOf?_eq_none hbad))]
  case served =>
    have hlen : segmentsLenOk f.payload = true := (segmentsLenOk_cons hp).2 hbody
    have hload : loadOf? f.payload = some (p, looseFlag final, segments) := hp ▸ loadOf?_in_range ha h1 h28 hs
    rw [← length_of_segmentsOf? hs, ← progStateOf_looseFlag]
    exact ⟨fun h => exec_loadProgram_of_batch h hlen hload, fun h => exec_appendProgram_of_batch h hlen hload⟩

end Sys2Proof.Machine
end

section
/-! The proofs of the requests of sessions and report delivery (R160 to R170): what each effect does to the report queue and to
the data a session request returns, what the two requests that name a sequence number share, and the obligations. -/

namespace Sys2Proof.Machine

variable {s e : State} {q : Request} {f : Frame} {rest : List Frame} {a b w : Byte} {n : Seq} {k : Nat}
  {serve : Frame → State → State × Reply}

/-! ### The data and the number of a session request (R160, R168, R194) -/

theorem beBytes_two (m : Nat) : beBytes 2 m = two m := by simp [beBytes, two]

theorem oldestSeq_eq_head (r : ReportQueue) : r.oldestSeq = r.entries.head?.elim r.nextSeq Entry.seq := by
  unfold ReportQueue.oldestSeq
  cases r.entries <;> rfl

theorem oldestSeq_eq_getD (r : ReportQueue) : r.oldestSeq = (r.entries.map Entry.seq).head?.getD r.nextSeq := by
  unfold ReportQueue.oldestSeq
  cases r.entries <;> rfl

theorem queueData_eq (r : ReportQueue) :
    r.data = two r.oldestSeq.toNat ++ two r.nextSeq.toNat ++ [BitVec.ofNat 8 r.entries.length] := by
  rw [ReportQueue.data, beBytes_two, beBytes_two]

theorem seqOf_eq (hp : f.payload = [a, b]) : seqOf f = a ++ b := by
  apply BitVec.eq_of_toNat_eq
  have hor : a.toNat <<< 8 ||| b.toNat = a.toNat * 256 + b.toNat := by
    rw [← Nat.shiftLeft_add_eq_or_of_lt b.isLt, Nat.shiftLeft_eq]
  have hnat : natAt f.payload 0 2 = a.toNat * 256 + b.toNat := by simp [natAt, beNat, hp]
  rw [seqOf, hnat, BitVec.toNat_ofNat, BitVec.toNat_append, hor]
  omega

/-- The data tells of the entries no more than their numbers. -/
theorem queueData_congr {r r' : ReportQueue} (hseq : r'.entries.map Entry.seq = r.entries.map Entry.seq)
    (hnext : r'.nextSeq = r.nextSeq) : r'.data = r.data := by
  have hlen : r'.entries.length = r.entries.length := by simpa using congrArg List.length hseq
  have holdest : r'.oldestSeq = r.oldestSeq := by
    rw [oldestSeq_eq_getD, oldestSeq_eq_getD, hseq, hnext]
  rw [ReportQueue.data, ReportQueue.data, holdest, hnext, hlen]

/-! ### What each effect leaves of the queue (R143, R152, R157, R161 to R163, R169, R170) -/

theorem queueData_clean (r : ReportQueue) : r.clean.data = [0, 0, 0, 0, 0] := by
  simp [ReportQueue.data, ReportQueue.clean, ReportQueue.oldestSeq, beBytes]

theorem queueData_unsendAll (r : ReportQueue) : r.unsendAll.data = r.data :=
  queueData_congr (List.map_map ..) rfl

theorem queueData_resend (r : ReportQueue) (n : Seq) : (r.resend n).data = r.data := by
  refine queueData_congr ?_ rfl
  have hunsent : Entry.seq ∘ Entry.unsent = Entry.seq := rfl
  rw [ReportQueue.resend, List.map_append, List.map_map, hunsent, ← List.map_append, List.take_append_drop]

/-- Changing all but the first `m` of a list, told by position. -/
theorem take_append_map_drop {α : Type} (g : α → α) (m : Nat) (xs : List α) :
    xs.take m ++ (xs.drop m).map g = xs.mapIdx fun i x => if m ≤ i then g x else x := by
  induction xs generalizing m with
  | nil => simp
  | cons x xs ih =>
    cases m with
    | zero => simpa using ih 0
    | succ m => simpa using ih m

theorem resend_eq (r : ReportQueue) (n : Seq) :
    r.resend n =
      { r with
        entries := r.entries.mapIdx fun i x =>
          if (n - r.oldestSeq).toNat ≤ i then { x with delivery := .pending } else x } := by
  rw [ReportQueue.resend, take_append_map_drop]
  rfl

theorem sentCount_le_length (r : ReportQueue) : r.sentCount ≤ r.entries.length := List.length_filter_le ..

/-- A GAP at the tail of an empty queue takes the very number the queue was to begin with. -/
theorem oldestSeq_flushLost (r : ReportQueue) (epoch : Epoch) (time : Time) :
    (r.flushLost epoch time).oldestSeq = r.oldestSeq := by
  unfold ReportQueue.flushLost
  split
  · rw [oldestSeq_eq_head, oldestSeq_eq_head, ReportQueue.insertGap_entries, ReportQueue.insertGap_nextSeq]
    cases r.entries <;> rfl
  · rfl

/-- In a sound queue the number of the oldest entry that stands behind `k` others follows from the next sequence (R143). -/
theorem ReportQueue.Sound.oldestSeq_drop {r : ReportQueue} (hr : r.Sound) (hk : k ≤ r.entries.length) :
    ReportQueue.oldestSeq { r with entries := r.entries.drop k } =
      r.nextSeq - BitVec.ofNat 16 (r.entries.length - k) := by
  rw [oldestSeq_eq_head, List.head?_drop]
  have hseq : (r.entries.map Entry.seq)[k]? = _ := congrArg (·[k]?) hr.numbered
  rw [List.getElem?_map] at hseq
  by_cases hlt : k < r.entries.length
  · rw [List.getElem?_eq_getElem hlt] at hseq ⊢
    simpa [hlt] using hseq
  · obtain rfl : k = r.entries.length := by omega
    simp

theorem ReportQueue.Sound.oldestSeq_eq {r : ReportQueue} (hr : r.Sound) :
    r.oldestSeq = r.nextSeq - BitVec.ofNat 16 r.entries.length :=
  hr.oldestSeq_drop (Nat.zero_le _)

/-- Behind the entry named, the queue begins with the number after it. -/
theorem oldestSeq_acknowledge {r : ReportQueue} (hr : r.Sound) (hn : (n - r.oldestSeq).toNat < r.sentCount)
    (epoch : Epoch) (time : Time) : (r.acknowledge n epoch time).oldestSeq = n + 1 := by
  have hle := sentCount_le_length r
  have hplaces := hr.places
  rw [ReportQueue.acknowledge, oldestSeq_flushLost, hr.oldestSeq_drop (by omega)]
  rw [hr.oldestSeq_eq] at hn ⊢
  generalize r.entries.length = len at *
  generalize r.nextSeq = next at *
  bv_omega

/-- With no loss waiting, an acknowledgement only removes (R169). -/
theorem acknowledge_lossless {r : ReportQueue} (h : r.lostCount = 0) (n : Seq) (epoch : Epoch) (time : Time) :
    r.acknowledge n epoch time = { r with entries := r.entries.drop ((n - r.oldestSeq).toNat + 1) } := by
  simp [ReportQueue.acknowledge, ReportQueue.flushLost, h]

/-- Removing an entry makes the place that the GAP of a waiting loss takes (R152). -/
theorem acknowledge_lossy {r : ReportQueue} (hr : r.Sound) (h : r.lostCount ≠ 0) (n : Seq) (epoch : Epoch) (time : Time) :
    r.acknowledge n epoch time =
      { r with
        entries := r.entries.drop ((n - r.oldestSeq).toNat + 1) ++
          [{ seq := r.nextSeq, delivery := .pending, report := .gap r.lostCount true
             source := .device, epoch := epoch, time := time }]
        nextSeq := r.nextSeq + 1
        lostCount := 0 } := by
  have hfull : r.entries.length = 64 := (hr.lostWaits (Nat.pos_of_ne_zero h)).1
  rw [ReportQueue.acknowledge, ReportQueue.flushLost, if_pos]
  · rfl
  · refine ⟨Nat.pos_of_ne_zero h, ?_⟩
    rw [ReportQueue.occupancy, List.length_drop, hfull, Config.queueEntries]
    omega

/-! ### Opening and closing a session (R160 to R163) -/

/-- What a request leaves whose serving changes the link too (R189), as long as it leaves the request queue (R183). -/
theorem takeRequest_served_of_requests {r : Reply} (h : Taking s q f rest) (hreq : e.link.requests = s.link.requests)
    (hserve : serve f s.popRequest = (e.popRequest, r)) :
    takeRequest q serve s = e.answered rest f r.status r.data := by
  have hpop : e.popRequest = { e with link := { e.link with requests := rest } } := by
    simp [State.popRequest, hreq, h.oldest]
  rw [takeRequest_taking h, hserve, respond_eq_answered r (by rw [hpop]), hpop]
  rfl

theorem takeRequest_openWith {mode : ReportQueue → ReportQueue} {m : Byte} (h : Taking s q f rest)
    (hp : f.payload = [w, m]) :
    takeRequest q (openWith mode) s =
      if 1 ≤ w.toNat ∧ w.toNat ≤ 32 then
        (s.openSession (mode s.reports) w.toNat).answered rest f .ok (mode s.reports).data
      else s.answered rest f .badParam [] := by
  have hserve : openWith mode f s.popRequest =
      if 1 ≤ w.toNat ∧ w.toNat ≤ 32 then
        ((s.openSession (mode s.reports) w.toNat).popRequest, Reply.okWith (mode s.reports).data)
      else refuse s.popRequest .badParam := by
    rw [openWith, hp]
    rfl
  split
  next hin => exact takeRequest_served_of_requests (r := Reply.okWith _) h rfl (hserve.trans (if_pos hin))
  next hout => exact takeRequest_refused h (hserve.trans (if_neg hout))

theorem exec_openSessionClean (s : State) :
    exec .openSessionClean s = .next (takeRequest .openSessionClean (openWith ReportQueue.clean) s) := rfl

theorem exec_openSessionResume (s : State) :
    exec .openSessionResume s = .next (takeRequest .openSessionResume (openWith ReportQueue.unsendAll) s) := rfl

theorem exec_closeSession (s : State) : exec .closeSession s = .next (takeRequest .closeSession serveCloseSession s) := rfl

theorem serveCloseSession_closed (hp : f.payload = []) (hs : s.reports.session = none) :
    serveCloseSession f s = refuse s .badState := by
  rw [serveCloseSession, withLen_of_length _ (by rw [hp]; rfl), hs]

theorem serveCloseSession_open (hp : f.payload = []) (hs : s.reports.session ≠ none) :
    serveCloseSession f s = ({ s with reports := { s.reports.unsendAll with session := none } }, Reply.ok) := by
  rw [serveCloseSession, withLen_of_length _ (by rw [hp]; rfl)]
  split
  next hnone => exact absurd hnone hs
  next => rfl

/-- Settles O13: an opening by its window on the queue its mode leaves, a closing by its length and the session (R160 to
R163). -/
theorem sessionsOpenAndClose : Obligations.SessionsOpenAndClose := by
  intro s f rest w
  refine ⟨fun h hp => ?clean, fun h hp => ?resume, fun h => ?close⟩
  case clean =>
    rw [exec_openSessionClean, takeRequest_openWith h hp, queueData_clean]
    rfl
  case resume =>
    rw [exec_openSessionResume, takeRequest_openWith h hp, queueData_unsendAll, queueData_eq, oldestSeq_eq_head]
    rfl
  case close =>
    rw [exec_closeSession]
    congr 1
    split
    next hlen => exact takeRequest_refused h (withLen_badLength _ (mt List.length_eq_zero_iff.1 hlen))
    next hlen =>
      have hp : f.payload = [] := not_not.1 hlen
      split
      next hs => exact takeRequest_refused h (serveCloseSession_closed hp hs)
      next hs => exact takeRequest_accepted h rfl (serveCloseSession_open hp hs)

/-! ### The requests that name a sequence number (R168) -/

theorem exec_ackReports (s : State) : exec .ackReports s = .next (takeRequest .ackReports serveAckReports s) := rfl

theorem exec_resendReports (s : State) :
    exec .resendReports s = .next (takeRequest .resendReports serveResendReports s) := rfl

/-- The checks of R168 in their order, and the answer with the queue that the effect leaves. -/
theorem takeRequest_onNamed {effect : Seq → ReportQueue → ReportQueue} (h : Taking s q f rest)
    (hserve : serve f s.popRequest = onNamed f s.popRequest effect) (hp : f.payload = [a, b]) :
    takeRequest q serve s =
      if s.reports.session = none then s.answered rest f .noSession []
      else if ((a ++ b) - s.reports.oldestSeq).toNat < s.reports.sentCount then
        State.answered { s with reports := effect (a ++ b) s.reports } rest f .ok (effect (a ++ b) s.reports).data
      else s.answered rest f .badAck [] := by
  rw [onNamed, withLen_of_length _ (by rw [hp]; rfl), seqOf_eq hp] at hserve
  split
  next hs => exact takeRequest_refused h (hserve.trans (if_pos hs))
  next hs =>
    replace hserve := hserve.trans (if_neg hs)
    split
    next hn =>
      have hnames : s.popRequest.reports.names (a ++ b) = true := decide_eq_true hn
      exact takeRequest_served (r := Reply.okWith _) h rfl (hserve.trans (if_pos hnames))
    next hn =>
      have hnames : ¬ s.popRequest.reports.names (a ++ b) = true := mt of_decide_eq_true hn
      exact takeRequest_refused h (hserve.trans (if_neg hnames))

/-- Settles O14: the checks R168 asks for, then the queue that an acknowledgement leaves, with and without a loss that waits
(R152, R169). -/
theorem acknowledgementRemovesThroughItsNumber : Obligations.AcknowledgementRemovesThroughItsNumber := by
  intro s f rest a b o n hr h
  rw [exec_ackReports]
  refine ⟨fun hlen => congrArg _ (takeRequest_refused h (withLen_badLength _ hlen)), ?_⟩
  rintro hp rfl rfl
  rw [takeRequest_onNamed (effect := fun n q => q.acknowledge n s.timebase.epoch s.timebase.time) h rfl hp,
    ← oldestSeq_eq_head]
  congr 1
  refine if_congr Iff.rfl rfl ?_
  split
  next hn =>
    have hle := sentCount_le_length s.reports
    rw [queueData_eq, oldestSeq_acknowledge hr hn]
    split
    next hlost =>
      rw [acknowledge_lossless hlost, List.length_drop]
    next hlost =>
      rw [acknowledge_lossy hr hlost, List.length_append, List.length_drop, List.length_singleton]
      congr 4
      omega
  next => rfl

/-- Settles O15: the checks R168 asks for, then the queue with the entries from the named one on PENDING, whose oldest number,
next sequence and occupancy stand as before (R170). -/
theorem resendReturnsEntriesFromItsNumber : Obligations.ResendReturnsEntriesFromItsNumber := by
  intro s f rest a b o n h
  rw [exec_resendReports]
  refine ⟨fun hlen => congrArg _ (takeRequest_refused h (withLen_badLength _ hlen)), ?_⟩
  rintro hp rfl rfl
  rw [takeRequest_onNamed (effect := fun n q => q.resend n) h rfl hp, queueData_resend, queueData_eq,
    resend_eq, oldestSeq_eq_head]

end Sys2Proof.Machine
end

section
/-! What an event at the engines and a turn of the queue may touch: some slots' records and some output lines, and of these only
the run and the levels.  The turns of the queue touch no more than the slots that an open event may still fault. -/

namespace Sys2Proof.Machine

variable {s t u : State} {k j : Slot} {D D' : Slot → Prop} {L L' : OutLine → Prop}

/-! ### Touching slots and output lines -/

/-- What a task keeps from its definition to its deletion: the common fields and the kind parameters (R1). -/
def Task.fixed (a : Task) : Common × KindParams := (a.common, a.engine.params)

/-- From `s` to `t` no slot but those of `D` and no output line but those of `L` has changed, the tasks are the same ones, and
each line has kept its idle level and its owner. -/
structure Touches (D : Slot → Prop) (L : OutLine → Prop) (s t : State) : Prop where
  outside : OutsideTurns s t
  slots : ∀ j, ¬D j → t.task? j = s.task? j
  fixed : ∀ j, (t.task? j).map Task.fixed = (s.task? j).map Task.fixed
  idle : ∀ l, (t.lines.outputs.get l).idle = (s.lines.outputs.get l).idle
  owner : ∀ l, (t.lines.outputs.get l).owner = (s.lines.outputs.get l).owner
  outputs : ∀ l, ¬L l → t.lines.outputs.get l = s.lines.outputs.get l

theorem Touches.refl (s : State) : Touches D L s s :=
  ⟨.refl s, fun _ _ => rfl, fun _ => rfl, fun _ => rfl, fun _ => rfl, fun _ _ => rfl⟩

theorem Touches.trans (h : Touches D L s t) (g : Touches D L t u) : Touches D L s u where
  outside := h.outside.trans g.outside
  slots j hj := (g.slots j hj).trans (h.slots j hj)
  fixed j := (g.fixed j).trans (h.fixed j)
  idle l := (g.idle l).trans (h.idle l)
  owner l := (g.owner l).trans (h.owner l)
  outputs l hl := (g.outputs l hl).trans (h.outputs l hl)

theorem Touches.mono (h : Touches D L s t) (hD : ∀ j, D j → D' j) (hL : ∀ l, L l → L' l) : Touches D' L' s t where
  outside := h.outside
  slots j hj := h.slots j fun hd => hj (hD j hd)
  fixed := h.fixed
  idle := h.idle
  owner := h.owner
  outputs l hl := h.outputs l fun hd => hl (hL l hd)

/-- A state that differs in none of the slots and the output lines is touched nowhere. -/
theorem Touches.of_same (h : OutsideTurns s t) (hslots : t.tasks.slots = s.tasks.slots)
    (hlines : t.lines.outputs = s.lines.outputs) : Touches D L s t := by
  have htask : ∀ j, t.task? j = s.task? j := fun j => by rw [State.task?, hslots]; rfl
  exact ⟨h, fun j _ => htask j, fun j => by rw [htask], fun l => by rw [hlines], fun l => by rw [hlines],
    fun l _ => by rw [hlines]⟩

/-- A task is there after as before, with the same fields. -/
theorem Touches.task {a : Task} (h : Touches D L s t) (ha : s.task? j = some a) :
    ∃ b, t.task? j = some b ∧ b.common = a.common ∧ b.engine.params = a.engine.params := by
  have := h.fixed j
  rw [ha, Option.map_some, Option.map_eq_some_iff] at this
  obtain ⟨b, hb, hfixed⟩ := this
  exact ⟨b, hb, congrArg Prod.fst hfixed, congrArg Prod.snd hfixed⟩

theorem Touches.none_iff (h : Touches D L s t) : t.task? j = none ↔ s.task? j = none := by
  rw [← Option.map_eq_none_iff (f := Task.fixed), h.fixed j, Option.map_eq_none_iff]

theorem fixed_setTask {a b : Task} (ha : s.task? k = some a) (hb : b.fixed = a.fixed) (j : Slot) :
    ((s.setTask k b).task? j).map Task.fixed = (s.task? j).map Task.fixed := by
  by_cases hj : j = k
  · subst hj; simp [ha, hb]
  · simp [hj]

/-- A task given a new record of the same task. -/
theorem Touches.setTask {a b : Task} (ha : s.task? k = some a) (hb : b.fixed = a.fixed) (hk : D k) :
    Touches D L s (s.setTask k b) where
  outside := ⟨⟨rfl, rfl, rfl, rfl, rfl, rfl⟩, rfl, rfl⟩
  slots j hj := s.task?_setTask_ne k j b fun e => hj (e ▸ hk)
  fixed := fixed_setTask ha hb
  idle _ := rfl
  owner _ := rfl
  outputs _ _ := rfl

/-- Output lines changed in their levels and pulses. -/
theorem Touches.onOutput {l : OutLine} {f : Output → Output} (hl : L l) (hidle : ∀ o, (f o).idle = o.idle)
    (howner : ∀ o, (f o).owner = o.owner) : Touches D L s (s.onOutput l f) where
  outside := ⟨⟨rfl, rfl, rfl, rfl, rfl, rfl⟩, rfl, rfl⟩
  slots _ _ := rfl
  fixed _ := rfl
  idle m := by by_cases h : m = l <;> simp [h, hidle]
  owner m := by by_cases h : m = l <;> simp [h, howner]
  outputs m hm := by
    have h : m ≠ l := fun e => hm (e ▸ hl)
    simp [h]

@[simp] theorem params_released (e : Engine) : e.released.params = e.params := by cases e <;> rfl
@[simp] theorem params_ended (e : Engine) : e.ended.params = e.params := by cases e <;> rfl

theorem ownedBy_iff {o : Output} : o.ownedBy k = true ↔ ∃ r, o.owner = .task k r := by
  unfold Output.ownedBy
  split <;> simp_all

/-- Slot `k`'s outputs put at rest. -/
theorem Touches.restOutputs (hL : ∀ l r, (s.lines.outputs.get l).owner = .task k r → L l) :
    Touches D L s (s.restOutputs k) where
  outside := ⟨⟨rfl, rfl, rfl, rfl, rfl, rfl⟩, rfl, rfl⟩
  slots _ _ := rfl
  fixed _ := rfl
  idle l := by simp only [State.restOutputs, State.onOutputs_outputs, Bank.get_map]; split <;> rfl
  owner l := by simp only [State.restOutputs, State.onOutputs_outputs, Bank.get_map]; split <;> rfl
  outputs l hl := by
    simp only [State.restOutputs, State.onOutputs_outputs, Bank.get_map]
    refine if_neg fun h => ?_
    obtain ⟨r, hr⟩ := ownedBy_iff.1 h
    exact hl (hL l r hr)

theorem Touches.fault {a : Task} {reason : FaultReason} (ha : s.task? k = some a) (hk : D k)
    (hL : ∀ l r, (s.lines.outputs.get l).owner = .task k r → L l) : Touches D L s (s.fault k a reason) := by
  rw [State.fault_eq]
  exact (Touches.setTask ha (by simp [Task.fixed]) hk).trans (.restOutputs hL)

/-! ### What the queue's turns keep -/

/-- A property of the state that an offer taken by the queue, a REPORT_LOST fault and a change of the open events keep. -/
structure KeptByTurns (P : State → Prop) : Prop where
  offered : ∀ s source epoch time r, P s → P { s with reports := s.reports.offer source epoch time r }
  faulted : ∀ s k a, s.task? k = some a → a.state ≠ .faulted → P s → P (s.fault k a .reportLost)
  events : ∀ s events, P s → P { s with events := events }

section
variable {P : State → Prop} (hP : KeptByTurns P)
include hP

theorem KeptByTurns.foldl_takeOffer (offers : List Offer) (x : State × OpenEvent) (h : P x.1) :
    P (offers.foldl takeOffer x).1 := by
  induction offers generalizing x with
  | nil => exact h
  | cons o rest ih => exact ih _ (hP.offered x.1 _ _ _ _ h)

theorem KeptByTurns.foldl_faultLost (slots : List Slot) (x : State × List Offer) (h : P x.1) :
    P (slots.foldl faultLost x).1 := by
  induction slots generalizing x with
  | nil => exact h
  | cons k rest ih =>
    refine ih _ ?_
    unfold faultLost
    split
    next a ha =>
      split
      next => exact h
      next hf => exact hP.faulted x.1 k a ha hf h
    next => exact h

theorem KeptByTurns.settleEvent (e : OpenEvent) (h : P s) : P (s.settleEvent e) :=
  hP.foldl_takeOffer _ _ (hP.foldl_faultLost _ _ (hP.foldl_takeOffer _ _ h))

theorem KeptByTurns.foldl_settleEvent (events : List OpenEvent) (h : P s) : P (events.foldl State.settleEvent s) := by
  induction events generalizing s with
  | nil => exact h
  | cons e rest ih => exact ih (hP.settleEvent e h)

theorem KeptByTurns.settle (h : P s) : P s.settle := hP.foldl_settleEvent _ (hP.events _ _ h)

theorem KeptByTurns.endEventsOf (slots : List Slot) (h : P s) : P (s.endEventsOf slots) :=
  hP.foldl_settleEvent _ (hP.events _ _ h)

theorem KeptByTurns.readyFor (slots : List Slot) (h : P s) : P (s.readyFor slots) := by
  rcases s.readyFor_eq slots with ⟨he, -⟩ | ⟨he, -⟩ <;> rw [he]
  exacts [h, hP.settle h]

theorem KeptByTurns.takeTurn (j : Slot) (h : P s) : P (s.takeTurn j) := by
  unfold State.takeTurn
  split
  next => exact h
  next =>
    split
    next => exact h
    next o e' _ =>
      dsimp only
      have ho : P (takeOffer (s, e') o).1 := hP.offered s _ _ _ _ h
      split
      · exact hP.events _ _ (hP.foldl_faultLost _ _ ho)
      · exact hP.events _ _ ho

theorem KeptByTurns.takeTurns (turns : Turns) (h : P s) : P (s.takeTurns turns) := by
  have hfold : ∀ (order : List Slot) (s : State), P s → P (order.foldl State.takeTurn s) := by
    intro order
    induction order with
    | nil => exact fun _ h => h
    | cons j rest ih => exact fun s h => ih _ (hP.takeTurn j h)
  unfold State.takeTurns
  split
  · exact hfold _ _ h
  · exact hP.settle (hfold _ _ h)

end

/-! ### Which slots a turn may fault -/

/-- An event may still fault the task of slot `j` (R25). -/
def OpenEvent.mayFault (e : OpenEvent) (j : Slot) : Prop :=
  j ∈ e.lost ∨ ∃ o ∈ e.offers, o.slot = j ∧ o.faultsIfLost = true

theorem undecided_iff_mayFault : s.undecided j = true ↔ ∃ e ∈ s.events, e.mayFault j := s.undecided_iff j

/-- The output lines of the slots of `D`, by their owner. -/
def State.linesOf (s : State) (D : Slot → Prop) (l : OutLine) : Prop :=
  ∃ j r, (s.lines.outputs.get l).owner = .task j r ∧ D j

theorem Touches.linesOf_iff (h : Touches D' L' s t) (l : OutLine) : t.linesOf D l ↔ s.linesOf D l := by
  simp only [State.linesOf, h.owner l]

/-- The offers of an event note no slot but one of theirs whose loss faults the task. -/
theorem foldl_takeOffer_lost (offers : List Offer) (x : State × OpenEvent) :
    j ∈ (offers.foldl takeOffer x).2.lost → j ∈ x.2.lost ∨ ∃ o ∈ offers, o.slot = j ∧ o.faultsIfLost = true := by
  induction offers generalizing x with
  | nil => exact .inl
  | cons o rest ih =>
    intro h
    rcases ih _ h with h | ⟨o', ho', h⟩
    · rw [takeOffer_lost] at h
      split at h
      next hlost =>
        rcases List.mem_append.1 h with h | h
        · exact .inl h
        · exact .inr ⟨o, by simp, (List.mem_singleton.1 h).symm, hlost.2⟩
      next => exact .inl h
    · exact .inr ⟨o', by simp [ho'], h⟩

theorem touches_foldl_faultLost (slots : List Slot) (x : State × List Offer) (h : ∀ k ∈ slots, D k) :
    Touches D (x.1.linesOf D) x.1 (slots.foldl faultLost x).1 := by
  induction slots generalizing x with
  | nil => exact .refl _
  | cons k rest ih =>
    have hk : Touches D (x.1.linesOf D) x.1 (faultLost x k).1 := by
      unfold faultLost
      split
      next a ha =>
        split
        next => exact .refl _
        next => exact .fault ha (h k (by simp)) fun l r hr => ⟨k, r, hr, h k (by simp)⟩
      next => exact .refl _
    have hrest := ih (faultLost x k) fun m hm => h m (by simp [hm])
    exact hk.trans (hrest.mono (fun _ => id) fun l => (hk.linesOf_iff l).1)

/-- Offers taken touch the report queue alone. -/
theorem touches_foldl_takeOffer (offers : List Offer) (x : State × OpenEvent) :
    Touches D L x.1 (offers.foldl takeOffer x).1 := by
  rw [foldl_takeOffer_state]
  exact .of_same ⟨⟨rfl, rfl, rfl, rfl, rfl, rfl⟩, rfl, rfl⟩ rfl rfl

theorem touches_settleEvent (e : OpenEvent) (h : ∀ j, e.mayFault j → D j) :
    Touches D (s.linesOf D) s (s.settleEvent e) := by
  have htaken : Touches D (s.linesOf D) s (e.offers.foldl takeOffer (s, e)).1 := touches_foldl_takeOffer _ (s, e)
  have hfaults := touches_foldl_faultLost (D := D) (e.offers.foldl takeOffer (s, e)).2.lost
    ((e.offers.foldl takeOffer (s, e)).1, []) fun k hk => h k (foldl_takeOffer_lost _ _ hk)
  have hoffered := touches_foldl_takeOffer (D := D) (L := s.linesOf D)
    ((e.offers.foldl takeOffer (s, e)).1.faultAll (e.offers.foldl takeOffer (s, e)).2.lost).2
    (((e.offers.foldl takeOffer (s, e)).1.faultAll (e.offers.foldl takeOffer (s, e)).2.lost).1,
      (e.offers.foldl takeOffer (s, e)).2)
  exact (htaken.trans (hfaults.mono (fun _ => id) fun l => (htaken.linesOf_iff l).1)).trans hoffered

theorem touches_foldl_settleEvent (events : List OpenEvent) (h : ∀ e ∈ events, ∀ j, e.mayFault j → D j) :
    Touches D (s.linesOf D) s (events.foldl State.settleEvent s) := by
  induction events generalizing s with
  | nil => exact .refl s
  | cons e rest ih =>
    have he := touches_settleEvent (s := s) e (h e (by simp))
    have hrest := ih (s := s.settleEvent e) fun x hx => h x (by simp [hx])
    exact he.trans (hrest.mono (fun _ => id) fun l => (he.linesOf_iff l).1)

theorem touches_events (events : List OpenEvent) : Touches D L s { s with events := events } :=
  .of_same ⟨⟨rfl, rfl, rfl, rfl, rfl, rfl⟩, rfl, rfl⟩ rfl rfl

/-- Settling touches the slots that an open event may still fault, and their output lines. -/
theorem touches_settle (h : ∀ j, s.undecided j = true → D j) : Touches D (s.linesOf D) s s.settle :=
  (touches_events []).trans
    (touches_foldl_settleEvent (s := { s with events := [] }) s.events fun e he j hj => h j (undecided_iff_mayFault.2 ⟨e, he, hj⟩))

theorem touches_endEventsOf (slots : List Slot) (h : ∀ j, s.undecided j = true → D j) :
    Touches D (s.linesOf D) s (s.endEventsOf slots) :=
  (touches_events (s.events.filter fun e => !slots.any e.concerns)).trans
    (touches_foldl_settleEvent (s := { s with events := s.events.filter fun e => !slots.any e.concerns }) _
      fun e he j hj => h j (undecided_iff_mayFault.2 ⟨e, (List.mem_filter.1 he).1, hj⟩))

/-- A task that no open event may still fault is settled as it is. -/
theorem task?_settle (h : s.undecided j = false) : s.settle.task? j = s.task? j :=
  (touches_settle (D := fun i => s.undecided i = true) fun _ => id).slots j (by simp [h])

theorem task?_clearFor {slots : List Slot} (h : s.undecided j = false) : (s.clearFor slots).task? j = s.task? j := by
  rcases s.clearFor_eq slots with ⟨he, -⟩ | ⟨he, -⟩ <;> rw [he]
  exact task?_settle h

theorem undecided_of_no_events (h : s.events = []) : s.undecided j = false := by
  rw [← Bool.not_eq_true, undecided_iff_mayFault, h]
  simp

theorem undecided_settle : s.settle.undecided j = false := undecided_of_no_events s.settle_events

/-- Ready for some slots, none of them may still fault. -/
theorem undecided_readyFor {slots : List Slot} (h : j ∈ slots) : (s.readyFor slots).undecided j = false := by
  rcases s.readyFor_eq slots with ⟨he, hu⟩ | ⟨he, -⟩ <;> rw [he]
  · exact hu j h
  · exact undecided_settle

/-! ### One turn -/

theorem next?_offers {e e' : OpenEvent} {o : Offer} (h : e.next? j = some (o, e')) :
    o ∈ e.offers ∧ o.slot = j ∧ e'.lost = e.lost ∧ e'.epoch = e.epoch ∧ e'.time = e.time ∧
      ∀ x ∈ e'.offers, x ∈ e.offers := by
  unfold OpenEvent.next? at h
  split at h
  next o' rest hown =>
    split at h
    next hj =>
      obtain ⟨rfl, rfl⟩ := Prod.mk.inj (Option.some.inj h)
      refine ⟨by simp [OpenEvent.offers, hown], hj, rfl, rfl, rfl, fun x hx => ?_⟩
      rcases List.mem_append.1 hx with hx | hx <;> simp [OpenEvent.offers, hown, hx]
    next => cases h
  next hown =>
    obtain ⟨o', ho', heq⟩ := Option.map_eq_some_iff.1 h
    obtain ⟨rfl, rfl⟩ := Prod.mk.inj heq
    refine ⟨by simp [OpenEvent.offers, List.mem_of_find?_eq_some ho'], by simpa using List.find?_some ho', rfl, rfl, rfl,
      fun x hx => ?_⟩
    rcases List.mem_append.1 hx with hx | hx
    · simp [OpenEvent.offers, hx]
    · simp [OpenEvent.offers, List.mem_of_mem_erase hx]

/-- The event a turn looks at stands among the open ones. -/
theorem span_eq_append {e : OpenEvent} {before after : List OpenEvent}
    (h : (s.events.span fun x => !x.holds j) = (before, e :: after)) :
    s.events = before ++ e :: after ∧ (∀ x ∈ before, x.holds j = false) ∧ e.holds j = true := by
  rw [List.span_eq_takeWhile_dropWhile] at h
  obtain ⟨h1, h2⟩ := Prod.mk.inj h
  refine ⟨by rw [← h1, ← h2, List.takeWhile_append_dropWhile], fun x hx => ?_, ?_⟩
  · simpa using List.mem_takeWhile_imp (p := fun x : OpenEvent => !x.holds j) (h1 ▸ hx)
  · have := List.head_dropWhile_not (fun x : OpenEvent => !x.holds j) (l := s.events) (by rw [h2]; simp)
    simpa [h2] using this

/-- What faults an event leaves waiting are TASK_FAULTs. -/
theorem foldl_faultLost_offers (slots : List Slot) (x : State × List Offer) (h : ∀ o ∈ x.2, o.faultsIfLost = false) :
    ∀ o ∈ (slots.foldl faultLost x).2, o.faultsIfLost = false := by
  induction slots generalizing x with
  | nil => exact h
  | cons k rest ih =>
    refine ih _ ?_
    unfold faultLost
    split
    next a ha =>
      split
      next => exact h
      next =>
        intro o ho
        rcases List.mem_append.1 ho with ho | ho
        · exact h o ho
        · rw [List.mem_singleton.1 ho]
          simp [Offer.faultsIfLost, faultOffer, Report.isTaskFault]
    next => exact h

/-- An event left open at its end may fault no task. -/
theorem not_mayFault_ended {e : OpenEvent} {faults : List Offer} (h : ∀ o ∈ faults, o.faultsIfLost = false)
    {x : OpenEvent} (hx : x ∈ e.ended faults) : ¬x.mayFault j := by
  unfold OpenEvent.ended at hx
  split at hx
  · cases hx
  · rw [List.mem_singleton.1 hx]
    rintro (hlost | ⟨o, ho, -, hf⟩)
    · cases hlost
    · rw [h o (by simpa [OpenEvent.offers] using ho)] at hf
      cases hf

theorem touches_takeTurn (h : ∀ j, s.undecided j = true → D j) :
    Touches D (s.linesOf D) s (s.takeTurn k) ∧ ∀ j, (s.takeTurn k).undecided j = true → D j := by
  unfold State.takeTurn
  split
  next => exact ⟨.refl s, h⟩
  next before e after hspan =>
    obtain ⟨hevents, -, -⟩ := span_eq_append hspan
    have hall : ∀ x ∈ before ++ e :: after, ∀ j, x.mayFault j → D j := fun x hx j hj =>
      h j (undecided_iff_mayFault.2 ⟨x, hevents ▸ hx, hj⟩)
    split
    next => exact ⟨.refl s, h⟩
    next o e' hnext =>
      obtain ⟨ho, hslot, hlost, -, -, hsub⟩ := next?_offers hnext
      have hmay : ∀ j, (takeOffer (s, e') o).2.mayFault j → e.mayFault j := by
        intro j hj
        rw [takeOffer_lost] at hj
        split at hj
        next hf =>
          rcases hj with hj | ⟨x, hx, hj⟩
          · rcases List.mem_append.1 hj with hj | hj
            · exact .inl (hlost ▸ hj)
            · exact .inr ⟨o, ho, (List.mem_singleton.1 hj).symm, hf.2⟩
          · exact .inr ⟨x, hsub x hx, hj⟩
        next =>
          rcases hj with hj | ⟨x, hx, hj⟩
          · exact .inl (hlost ▸ hj)
          · exact .inr ⟨x, hsub x hx, hj⟩
      have htaken : Touches D (s.linesOf D) s (takeOffer (s, e') o).1 := touches_foldl_takeOffer [o] (s, e')
      dsimp only
      split
      next =>
        have hfaults := touches_foldl_faultLost (D := D) (takeOffer (s, e') o).2.lost ((takeOffer (s, e') o).1, [])
          fun k hk => hall e (by simp) k (hmay k (.inl hk))
        refine ⟨(htaken.trans (hfaults.mono (fun _ => id) fun l => (htaken.linesOf_iff l).1)).trans
          (touches_events _), fun j hj => ?_⟩
        obtain ⟨x, hx, hxj⟩ := undecided_iff_mayFault.1 hj
        simp only [List.mem_append] at hx
        rcases hx with (hx | hx) | hx
        · exact hall x (by simp [hx]) j hxj
        · exact absurd hxj (not_mayFault_ended (foldl_faultLost_offers _ _ (by simp)) hx)
        · exact hall x (by simp [hx]) j hxj
      next =>
        refine ⟨htaken.trans (touches_events _), fun j hj => ?_⟩
        obtain ⟨x, hx, hxj⟩ := undecided_iff_mayFault.1 hj
        simp only [List.mem_append, List.mem_cons] at hx
        rcases hx with hx | rfl | hx
        · exact hall x (by simp [hx]) j hxj
        · exact hall e (by simp) j (hmay j hxj)
        · exact hall x (by simp [hx]) j hxj

/-- The turns at the end of an event touch the slots that an open event may still fault, and their output lines. -/
theorem touches_takeTurns (turns : Turns) (h : ∀ j, s.undecided j = true → D j) :
    Touches D (s.linesOf D) s (s.takeTurns turns) := by
  have hfold : ∀ (order : List Slot) (s : State), (∀ j, s.undecided j = true → D j) →
      Touches D (s.linesOf D) s (order.foldl State.takeTurn s) ∧
        ∀ j, (order.foldl State.takeTurn s).undecided j = true → D j := by
    intro order
    induction order with
    | nil => exact fun s h => ⟨.refl s, h⟩
    | cons k rest ih =>
      intro s h
      obtain ⟨h1, h2⟩ := touches_takeTurn (k := k) h
      obtain ⟨g1, g2⟩ := ih _ h2
      exact ⟨h1.trans (g1.mono (fun _ => id) fun l => (h1.linesOf_iff l).1), g2⟩
  obtain ⟨h1, h2⟩ := hfold turns.order s h
  unfold State.takeTurns
  split
  · exact h1
  · exact h1.trans ((touches_settle h2).mono (fun _ => id) fun l => (h1.linesOf_iff l).1)

end Sys2Proof.Machine
end

section
/-! What a command can do, said once: the service of each request row, what serving a request leaves of the state, and the
events of the other rows.  Every statement about all steps is derived from `exec_happens`. -/

namespace Sys2Proof.Machine

/-! ### The requests -/

/-- The service of a request row; RESET_DEVICE FULL and the rows that are no requests have none. -/
def serviceOf : Instr → Option (Frame → State → State × Reply)
  | .getIdentity => some serveGetIdentity
  | .getLinkStatus => some serveGetLinkStatus
  | .resetDeviceTasks => some serveResetDeviceTasks
  | .openSessionClean => some serveOpenSessionClean
  | .openSessionResume => some serveOpenSessionResume
  | .closeSession => some serveCloseSession
  | .ackReports => some serveAckReports
  | .resendReports => some serveResendReports
  | .setTick => some serveSetTick
  | .getTime => some serveGetTime
  | .configInput => some serveConfigInput
  | .configOutput => some serveConfigOutput
  | .setOutputActive => some serveSetOutputActive
  | .setOutputIdle => some serveSetOutputIdle
  | .setOutputRelease => some serveSetOutputRelease
  | .getLines => some serveGetLines
  | .loadProgram => some serveLoadProgram
  | .appendProgram => some serveAppendProgram
  | .eraseProgram => some serveEraseProgram
  | .getProgram => some serveGetProgram
  | .defineTask => some serveDefineTask
  | .deleteTask => some serveDeleteTask
  | .armTask => some serveArmTask
  | .disarmTask => some serveDisarmTask
  | .startTask => some serveStartTask
  | .startGroup turns => some (serveStartGroup turns)
  | .stopTaskGraceful => some serveStopGraceful
  | .stopTaskAbort => some serveStopAbort
  | .queryTask => some serveQueryTask
  | .readCount => some serveReadCount
  | .setPosition => some serveSetPosition
  | .unknownRequest => some serveUnknownRequest
  | .setOutput => some serveSetOutput
  | .stopTask => some serveStopTask
  | .resetDevice => some serveResetDevice
  | .openSession => some serveOpenSession
  | _ => none

/-- A request row is the taking of a request by its service. -/
theorem exec_request {c : Instr} {q : Request} (s : State) (h : rowOf c = some q) (hq : q ≠ .resetDeviceFull) :
    ∃ serve, serviceOf c = some serve ∧ exec c s = .next (takeRequest q serve s) := by
  cases c <;> cases h <;> first | exact absurd rfl hq | exact ⟨_, rfl, rfl⟩

/-- What serving a request leaves of the state, by the row: each accepted request has its effect, and what a request waits for
is over first. -/
inductive Served : Instr → State → State → Prop
  | same (c : Instr) (s : State) : Served c s s
  | settled {c : Instr} {s t : State} (h : Served c s.settle t) : Served c s t
  | countersCleared (s : State) : Served .getLinkStatus s { s with link := s.link.clearCounters }
  | tasksFreed (s : State) (h : s.events = []) :
    Served .resetDeviceTasks s ((freeAllSlots s).offerDevice (.deviceReset .tasks))
  | openedClean (s : State) (w : Nat) (h : 1 ≤ w ∧ w ≤ 32) :
    Served .openSessionClean s (s.openSession s.reports.clean w)
  | openedResume (s : State) (w : Nat) (h : 1 ≤ w ∧ w ≤ 32) :
    Served .openSessionResume s (s.openSession s.reports.unsendAll w)
  | closed (s : State) :
    Served .closeSession s { s with reports := { s.reports.unsendAll with session := none } }
  | acknowledged (s : State) (n : Seq) (h : s.reports.names n = true) :
    Served .ackReports s { s with reports := s.reports.acknowledge n s.timebase.epoch s.timebase.time }
  | resent (s : State) (n : Seq) : Served .resendReports s { s with reports := s.reports.resend n }
  | timeRestarted (s : State) (rate : TickRate) (h : s.events = []) : Served .setTick s (s.restartTime rate)
  | inputConfigured (s : State) (l : InLine) (p : Polarity) (filter : Nat) (h : filter ≤ 63) :
    Served .configInput s (s.onInput l fun i => i.configure p filter)
  | outputConfigured (s : State) (l : OutLine) (idle : Level) (h : (s.lines.outputs.get l).owner = .none) :
    Served .configOutput s (s.onOutput l fun o => o.configure idle)
  | outputActive (s : State) (l : OutLine) (h : (s.lines.outputs.get l).taskOwned = false) :
    Served .setOutputActive s (s.onOutput l (Output.host true))
  | outputIdle (s : State) (l : OutLine) (h : (s.lines.outputs.get l).taskOwned = false) :
    Served .setOutputIdle s (s.onOutput l (Output.host false))
  | outputReleased (s : State) (l : OutLine) (h : (s.lines.outputs.get l).taskOwned = false) :
    Served .setOutputRelease s (s.onOutput l Output.release)
  | loaded {f : Frame} (s : State) (p : Prog) (final : Bool) (segments : List Segment)
    (hf : loadOf? f.payload = some (p, final, segments)) (h : (s.programs.get p).refCount = 0)
    (hfree : segments.length ≤ s.freeCells + (s.programs.get p).segments.length) :
    Served .loadProgram s (s.onProgram p (Program.load final segments))
  | appended {f : Frame} (s : State) (p : Prog) (final : Bool) (segments : List Segment)
    (hf : loadOf? f.payload = some (p, final, segments)) (h : (s.programs.get p).state = .loading)
    (hlen : (s.programs.get p).segments.length + segments.length ≤ 128) (hfree : segments.length ≤ s.freeCells) :
    Served .appendProgram s (s.onProgram p (Program.extend final segments))
  | erased (s : State) (p : Prog) (h : (s.programs.get p).refCount = 0) :
    Served .eraseProgram s (s.onProgram p Program.erase)
  | defined {f : Frame} (s : State) (k : Slot) (c : Common) (kind : KindParams)
    (hf : recordOf? k f.payload = some (c, kind)) (hk : s.task? k = none) (hprog : s.unsealed kind = false)
    (hout : s.outputsFree (outputsOf c kind) = true) (hin : s.claimsFit (claimsOf c kind) = true) :
    Served .defineTask s (s.define k c kind)
  | deleted (s : State) (k : Slot) (t : Task) (hk : s.task? k = some t) (h : t.state.atRest = true) :
    Served .deleteTask s (s.delete k t)
  | armed (s : State) (k : Slot) (t : Task) (hk : s.task? k = some t) (h : t.state.atRest = true) :
    Served .armTask s ((s.setTask k t.armed).driveOpt t.engine.alertLine? false)
  | disarmed (s : State) (k : Slot) (t : Task) (hk : s.task? k = some t) (h : t.state = .armed) :
    Served .disarmTask s ((s.setTask k t.disarmed).restOutputs k)
  | started {c : Instr} (s : State) (k : Slot) (h : s.isArmed k = true) :
    Served c s ((startSlots [k] .host s).endEventsOf [k])
  | groupStarted {c : Instr} (s : State) (slots : List Slot) (turns : Turns) (hnodup : slots.Nodup)
    (h : ∀ k ∈ slots, s.isArmed k = true) :
    Served c s (((startSlots slots .group s).takeTurns turns).endEventsOf slots)
  | stopping {c : Instr} (s : State) (k : Slot) (t : Task) (hk : s.task? k = some t) (h : t.state = .running)
    (hf : t.engine.finishes = true) : Served c s (s.setTask k { t with state := .stopping })
  | runEnded {c : Instr} (s : State) (k : Slot) (t : Task) (ending : Ending) (hk : s.task? k = some t)
    (h : t.inRun = true) : Served c s ((endRun k t ending s).endEventsOf [k])
  | positionSet {c : Instr} (s : State) (k : Slot) (t : Task) (p : PositionParams) (r : PositionRun) (v : Position)
    (hk : s.task? k = some t) (he : t.engine = .position p r) :
    Served c s (s.setTask k { t with engine := .position p { r with position := v } })

/-! ### Each service leaves what it is served with -/

section
variable {c : Instr} {f : Frame} {s t : State} {serve : Frame → State → State × Reply}

theorem Served.ready {slots : List Slot} (h : Served c (s.readyFor slots) t) : Served c s t := by
  rcases s.readyFor_eq slots with ⟨he, -⟩ | ⟨he, -⟩ <;> rw [he] at h
  exacts [h, .settled h]

theorem Served.clear {slots : List Slot} (h : Served c (s.clearFor slots) t) : Served c s t := by
  rcases s.clearFor_eq slots with ⟨he, -⟩ | ⟨he, -⟩ <;> rw [he] at h
  exacts [h, .settled h]

theorem served_withLen {n : Nat} {x : State × Reply} (h : Served c s x.1) : Served c s (withLen n f s x).1 := by
  unfold withLen
  split
  exacts [h, .same c s]

theorem served_openWith {mode : ReportQueue → ReportQueue}
    (h : ∀ w, 1 ≤ w ∧ w ≤ 32 → Served c s (s.openSession (mode s.reports) w)) : Served c s (openWith mode f s).1 := by
  unfold openWith
  dsimp only
  split
  next hw => exact h _ hw
  next => exact .same c s

theorem served_onNamed {effect : Seq → ReportQueue → ReportQueue}
    (h : ∀ n, s.reports.names n = true → Served c s { s with reports := effect n s.reports }) :
    Served c s (onNamed f s effect).1 := by
  refine served_withLen ?_
  split
  · exact .same c s
  · split
    next hn => exact h _ hn
    next => exact .same c s

theorem served_setOutputWith {effect : Output → Output}
    (h : ∀ l, (s.lines.outputs.get l).taskOwned = false → Served c s (s.onOutput l effect)) :
    Served c s (setOutputWith effect f s).1 := by
  unfold setOutputWith
  split
  · exact .same c s
  next l _ =>
    split
    · exact .same c s
    next hl => exact h l (by simpa using hl)

/-- A request on a slot is served in the state in which no earlier event may still fault the slot's task. -/
theorem served_onSlot {serve : Slot → State → Option Task → State × Reply}
    (h : ∀ k e, e.undecided k = false → Served c e (serve k e (e.task? k)).1) :
    Served c s (onSlot f s serve).1 := by
  unfold onSlot
  split
  · exact .same c s
  next k _ => exact .ready (h k _ (undecided_readyFor (by simp)))

theorem served_inStates {accepts : TaskState → Bool} {effect : Task → State} {o : Option Task}
    (h : ∀ a, o = some a → accepts a.state = true → Served c s (effect a)) :
    Served c s (inStates s accepts effect o).1 := by
  unfold inStates
  split
  · exact .same c s
  next a =>
    split
    next ha => exact h a rfl ha
    next => exact .same c s

theorem isArmed_iff {k : Slot} : s.isArmed k = true ↔ ∃ a, s.task? k = some a ∧ a.state = .armed := by
  unfold State.isArmed
  split <;> simp_all

theorem served_getLinkStatus : Served .getLinkStatus s (serveGetLinkStatus f s).1 := by
  refine served_withLen ?_
  split
  · exact .same _ s
  · dsimp only
    split
    exacts [.countersCleared s, .same _ s]

theorem served_setTick : Served .setTick s (serveSetTick f s).1 := by
  refine served_withLen ?_
  split
  · exact .same _ s
  · refine .settled ?_
    dsimp only
    split
    · exact .same _ _
    · split
      · exact .same _ _
      · exact .timeRestarted _ _ s.settle_events

theorem inputConfigOf?_filter {p : List Byte} {l : InLine} {pol : Polarity} {n : Nat}
    (h : inputConfigOf? p = some (l, pol, n)) : n ≤ 63 := by
  simp only [inputConfigOf?, Option.bind_eq_bind, Option.bind_eq_some_iff, require] at h
  obtain ⟨_, -, _, -, _, hr, h⟩ := h
  split at hr
  next hn =>
    obtain ⟨-, -, rfl⟩ := by simpa using h
    simpa using hn
  next => cases hr

theorem served_configInput : Served .configInput s (serveConfigInput f s).1 := by
  refine served_withLen ?_
  split
  · exact .same _ s
  next l p n hf =>
    split
    · exact .inputConfigured s l p n (inputConfigOf?_filter hf)
    · exact .same _ s

theorem served_configOutput : Served .configOutput s (serveConfigOutput f s).1 := by
  refine served_withLen ?_
  split
  next l idle _ _ =>
    split
    next ho => exact .outputConfigured s l idle ho
    next => exact .same _ s
  · exact .same _ s

theorem served_loadProgram : Served .loadProgram s (serveLoadProgram f s).1 := by
  unfold serveLoadProgram
  split
  · split
    · exact .same _ s
    next p final segments hf =>
      dsimp only
      split
      · exact .same _ s
      next hc =>
        split
        · exact .same _ s
        next hfree => exact .loaded s p final segments hf (by omega) (by omega)
  · exact .same _ s

theorem served_appendProgram : Served .appendProgram s (serveAppendProgram f s).1 := by
  unfold serveAppendProgram
  split
  · split
    · exact .same _ s
    next p final segments hf =>
      dsimp only
      split
      · exact .same _ s
      next hstate =>
        split
        · exact .same _ s
        next hlen =>
          split
          · exact .same _ s
          next hfree => exact .appended s p final segments hf (not_not.1 hstate) (Nat.le_of_not_lt hlen) (by omega)
  · exact .same _ s

theorem served_eraseProgram : Served .eraseProgram s (serveEraseProgram f s).1 := by
  refine served_withLen ?_
  split
  · exact .same _ s
  next p _ =>
    split
    · exact .same _ s
    next hc => exact .erased s p (by omega)

theorem served_defineTask : Served .defineTask s (serveDefineTask f s).1 := by
  unfold serveDefineTask
  split
  · split
    · exact .same _ s
    next k _ =>
      split
      · exact .same _ s
      next hk =>
        unfold defineChecked
        split
        · exact .same _ s
        next c kind hf =>
          repeat' split
          all_goals first | exact .same _ s | skip
          next hprog hout hin =>
            exact .defined s k c kind hf (by simpa using hk) (by simpa using hprog) (by simpa using hout)
              (by simpa using hin)
  · exact .same _ s

theorem served_startTask : Served .startTask s (serveStartTask f s).1 := by
  refine served_withLen (served_onSlot fun k e hu => served_inStates fun a ha harmed => .clear (.started _ k ?_))
  rw [isArmed_iff, task?_clearFor hu]
  exact ⟨a, ha, by simpa using harmed⟩

theorem maskSlots_nodup (mask : Nat) : (maskSlots mask).Nodup := (indices_nodup 16).filter _

theorem served_startGroup (turns : Turns) : Served c s (serveStartGroup turns f s).1 := by
  refine served_withLen (.ready (slots := maskSlots (natAt f.payload 0 2)) ?_)
  dsimp only
  split
  · exact .same _ _
  · split
    next hall =>
      refine .clear (.groupStarted _ _ turns (maskSlots_nodup _) fun k hk => ?_)
      rw [isArmed_iff, task?_clearFor (undecided_readyFor hk), ← isArmed_iff]
      exact List.all_eq_true.1 hall k hk
    next => exact .same _ _

theorem served_endRun {k : Slot} {a : Task} {ending : Ending} (hu : s.undecided k = false) (ha : s.task? k = some a)
    (hrun : a.inRun = true) : Served c s (s.requestEvent [k] (endRun k a ending)) :=
  .clear (.runEnded _ k a ending ((task?_clearFor hu).trans ha) hrun)

theorem served_stopGraceful : Served c s (serveStopGraceful f s).1 := by
  refine served_onSlot fun k e hu => served_inStates fun a ha hrun => ?_
  unfold gracefulStop
  split
  · exact .same _ e
  next hstop =>
    split
    next hfin => exact .stopping e k a ha (by simpa [TaskState.inRun, hstop] using hrun) hfin
    next => exact served_endRun hu ha hrun

theorem served_stopAbort : Served c s (serveStopAbort f s).1 :=
  served_onSlot fun _ _ hu => served_inStates fun _ ha hrun => served_endRun hu ha hrun

theorem served_setPosition : Served c s (serveSetPosition f s).1 := by
  refine served_withLen (served_onSlot fun k e _ => ?_)
  split
  · exact .same _ e
  next a ha =>
    split
    next x hx =>
      cases he : a.engine with
      | position p r =>
        rw [he] at hx
        cases hx
        exact .positionSet e k a p r _ ha he
      | _ => rw [he] at hx; cases hx
    next => exact .same _ e

/-- Serving a request leaves what its row may leave. -/
theorem served_of_service (h : serviceOf c = some serve) : Served c s (serve f s).1 := by
  cases c <;> cases h
  case getIdentity => exact served_withLen (.same _ s)
  case getLinkStatus => exact served_getLinkStatus
  case resetDeviceTasks => exact .settled (.tasksFreed _ s.settle_events)
  case openSessionClean => exact served_openWith fun w hw => .openedClean s w hw
  case openSessionResume => exact served_openWith fun w hw => .openedResume s w hw
  case closeSession =>
    refine served_withLen ?_
    split
    exacts [.same _ s, .closed s]
  case ackReports => exact served_onNamed fun n hn => .acknowledged s n hn
  case resendReports => exact served_onNamed fun n _ => .resent s n
  case setTick => exact served_setTick
  case getTime => exact served_withLen (.same _ s)
  case configInput => exact served_configInput
  case configOutput => exact served_configOutput
  case setOutputActive => exact served_setOutputWith fun l hl => .outputActive s l hl
  case setOutputIdle => exact served_setOutputWith fun l hl => .outputIdle s l hl
  case setOutputRelease => exact served_setOutputWith fun l hl => .outputReleased s l hl
  case getLines =>
    refine served_withLen ?_
    split
    exacts [.same _ s, .ready (.same _ _)]
  case loadProgram => exact served_loadProgram
  case appendProgram => exact served_appendProgram
  case eraseProgram => exact served_eraseProgram
  case getProgram =>
    refine served_withLen ?_
    repeat' split
    all_goals exact .same _ s
  case defineTask => exact served_defineTask
  case deleteTask =>
    exact served_withLen (served_onSlot fun k e _ => served_inStates fun a ha hst => .deleted e k a ha hst)
  case armTask =>
    exact served_withLen (served_onSlot fun k e _ => served_inStates fun a ha hst => .armed e k a ha hst)
  case disarmTask =>
    exact served_withLen (served_onSlot fun k e _ => served_inStates fun a ha hst =>
      .disarmed e k a ha (by simpa using hst))
  case startTask => exact served_startTask
  case startGroup turns => exact served_startGroup turns
  case stopTaskGraceful => exact served_stopGraceful
  case stopTaskAbort => exact served_stopAbort
  case queryTask => exact served_withLen (served_onSlot fun _ e _ => .same _ e)
  case readCount => exact served_withLen (served_onSlot fun _ e _ => .same _ e)
  case setPosition => exact served_setPosition
  case unknownRequest => exact .same _ s
  case setOutput => exact served_withLen (.same _ s)
  case stopTask => exact served_withLen (.same _ s)
  case resetDevice => exact served_withLen (.same _ s)
  case openSession => exact served_withLen (.same _ s)

end

/-! ### The commands -/

/-- What a command does: nothing, the taking of a request, or the event its row names. -/
inductive Happens : Instr → State → State → Prop
  | nothing (c : Instr) (s : State) : Happens c s s
  | settled {c : Instr} {s t : State} (h : Happens c s.settle t) : Happens c s t
  | request {c : Instr} {s e : State} {q : Request} {f : Frame} {rest : List Frame} {r : Reply}
    {serve : Frame → State → State × Reply} (ht : Taking s q f rest) (hc : serviceOf c = some serve)
    (hserve : serve f s.popRequest = (e, r)) (hserved : Served c s.popRequest e) : Happens c s (e.respond f r)
  | stopped {s : State} {f : Frame} {rest : List Frame} (ht : Taking s .resetDeviceFull f rest) :
    Happens .resetDeviceFull s { s with link := s.popRequest.link.stop (f.answer Reply.ok true) }
  | received (s : State) (b : Byte) : Happens (.rxByte b) s { s with link := s.link.take b }
  | abandoned (s : State) : Happens .frameAbandoned s { s with link := s.link.abandon }
  | placed (s : State) : Happens .responsePlaced s { s with link := s.link.placeHeld }
  | arbitrated {c : Instr} {s : State} (h : ∀ x, s.link.transmission = some x → x.endsInFullReset = false) :
    Happens c s (arbitrate s.endFrame)
  | reset {c : Instr} (s : State) (cause : ResetCause) (straps : Straps)
    (hc : c = .fullReset straps ∨ c = .hardResetEnd straps) : Happens c s (resetTo s.pending cause straps)
  | cut (s : State) (cause : HardCause) :
    Happens (.hardReset cause) s
      { s.onOutputs Output.lowInReset with
        inReset := some cause
        tasks := { s.tasks with updates := Bank.fill 16 none }
        events := []
        link := s.link.cut }
  | sampled {s : State} (levels : Bank Level 12) (hr : s.inReset = none) (he : s.events = [])
    (hu : ∀ k, s.tasks.updates.get k = none) :
    Happens (.sampleInstant levels) s
      { s with
        tasks := { s.tasks with updates := Bank.build 16 (viewFor s.lines (s.lines.sampleAll levels) s.timebase.time) }
        lines := s.lines.sampleAll levels }
  | ticked {s : State} (hr : s.inReset = none) (he : s.events = []) (hu : ∀ k, s.tasks.updates.get k = none) :
    Happens .tickBoundary s
      { s with
        tasks := { s.tasks with slots := s.tasks.slots.map (Option.map Task.ticked) }
        timebase := { s.timebase with time := s.timebase.time + 1 } }
  | pulseEnded {s : State} (l : OutLine) (hr : s.inReset = none)
    (h : (s.lines.outputs.get l).markEnd = some s.timebase.time) : Happens (.markExpiry l) s (s.onOutput l Output.rest)
  | turned {c : Instr} {s : State} (turns : Turns) (hr : s.inReset = none) : Happens c s (s.takeTurns turns)
  | updated {s : State} {v : View} (k : Slot) (turns : Turns) (hr : s.inReset = none)
    (hv : s.tasks.updates.get k = some v) :
    Happens (.taskUpdate k turns) s ((takeUpdate k v (s.dropUpdate k)).takeTurns turns)
  | clocked {s : State} (k : Slot) (turns : Turns) (hr : s.inReset = none) (hf : s.clockFallen k = true) :
    Happens (.taskClock k turns) s ((takeClock k s).takeTurns turns)
  | expired {s : State} (k : Slot) (turns : Turns) (hr : s.inReset = none) (hf : s.expiryFallen k = true) :
    Happens (.deadlineExpiry k turns) s ((takeExpiry k s).takeTurns turns)

section
variable {c : Instr} {s t : State}

theorem Happens.ready {slots : List Slot} (h : Happens c (s.readyFor slots) t) : Happens c s t := by
  rcases s.readyFor_eq slots with ⟨he, -⟩ | ⟨he, -⟩ <;> rw [he] at h
  exacts [h, .settled h]

theorem happens_request {q : Request} {serve : Frame → State → State × Reply} (hc : serviceOf c = some serve) :
    Happens c s (takeRequest q serve s) := by
  by_cases ht : ∃ f rest, Taking s q f rest
  · obtain ⟨f, rest, ht⟩ := ht
    rw [takeRequest_taking ht]
    exact .request ht hc rfl (served_of_service hc)
  · rw [takeRequest_not_taking ht]
    exact .nothing c s

theorem happens_resetDeviceFull : Happens .resetDeviceFull s (resetDeviceFull s) := by
  unfold resetDeviceFull
  split
  · exact .nothing _ s
  next f hf =>
    split
    next hq =>
      obtain ⟨rest, ht⟩ := taking_iff.2 ⟨hf, hq⟩
      exact .stopped ht
    next => exact .nothing _ s

theorem endFrame_of_none (h : s.link.transmission = none) : s.endFrame = s := by
  have hlink : { s.link with transmission := none } = s.link := by rw [← h]
  rw [State.endFrame, hlink]

theorem happens_frameBoundary : Happens .frameBoundary s (atFrameBoundary s) := by
  unfold atFrameBoundary
  split
  · exact .nothing _ s
  next x hx =>
    split
    · exact .nothing _ s
    next hends => exact .arbitrated fun y hy => by rw [hx] at hy; cases hy; simpa using hends

theorem happens_idleArbiterChoice : Happens .idleArbiterChoice s (atIdle s) := by
  unfold atIdle
  split
  · exact .nothing _ s
  next h =>
    have htrans : s.link.transmission = none := by
      simp only [Bool.or_eq_true, not_or, Option.isSome_iff_ne_none, not_not] at h
      exact h.2
    have hidle := Happens.arbitrated (c := .idleArbiterChoice) (s := s) fun y hy => by rw [htrans] at hy; cases hy
    rwa [endFrame_of_none htrans] at hidle

theorem happens_sampleInstant (levels : Bank Level 12) : Happens (.sampleInstant levels) s (sampleInputs levels s) := by
  unfold sampleInputs
  split
  · exact .nothing _ s
  next h =>
    simp only [Bool.or_eq_true, not_or, Option.isSome_iff_ne_none, not_not, Bank.any_iff, not_exists] at h
    obtain ⟨hr, hu⟩ := h
    have hout := s.settle_outside
    exact .settled (.sampled levels (hout.blocks.inReset.trans hr) s.settle_events fun k => by
      rw [hout.updates]; exact hu k)

theorem happens_tickBoundary : Happens .tickBoundary s (tick s) := by
  unfold tick
  split
  · exact .nothing _ s
  next h =>
    simp only [Bool.or_eq_true, not_or, Option.isSome_iff_ne_none, not_not, instantOpen_iff, not_exists] at h
    obtain ⟨hr, hu, -⟩ := h
    have hout := s.settle_outside
    exact .settled (.ticked (hout.blocks.inReset.trans hr) s.settle_events fun k => by
      rw [hout.updates]; exact hu k)

theorem happens_taskUpdate (k : Slot) (turns : Turns) : Happens (.taskUpdate k turns) s (updateEvent k turns s) := by
  unfold updateEvent
  split
  · exact .nothing _ s
  next h =>
    have hr : s.inReset = none := by simpa using h
    split
    · exact .turned turns hr
    next v hv =>
      have hout := s.readyFor_outside (s.concerned k)
      exact .ready (.updated k turns (hout.blocks.inReset.trans hr) (by rw [hout.updates]; exact hv))

theorem happens_taskClock (k : Slot) (turns : Turns) : Happens (.taskClock k turns) s (clockEvent k turns s) := by
  unfold clockEvent
  split
  · exact .nothing _ s
  next h =>
    have hr : s.inReset = none := by simpa using h
    split
    next =>
      have hr' := (s.readyFor_outside (s.concerned k)).blocks.inReset.trans hr
      unfold engineEvent
      refine .ready (slots := s.concerned k) ?_
      dsimp only
      split
      next hf => exact .clocked k turns hr' hf
      next => exact .turned turns hr'
    next => exact .turned turns hr

theorem happens_deadlineExpiry (k : Slot) (turns : Turns) : Happens (.deadlineExpiry k turns) s (expiryEvent k turns s) := by
  unfold expiryEvent
  split
  · exact .nothing _ s
  next h =>
    have hr : s.inReset = none := by simpa using h
    split
    next =>
      have hr' := (s.readyFor_outside (s.concerned k)).blocks.inReset.trans hr
      unfold engineEvent
      refine .ready (slots := s.concerned k) ?_
      dsimp only
      split
      next hf => exact .expired k turns hr' hf
      next => exact .turned turns hr'
    next => exact .turned turns hr

theorem happens_markExpiry (l : OutLine) : Happens (.markExpiry l) s (endMark l s) := by
  unfold endMark
  split
  next h =>
    simp only [Bool.and_eq_true, Option.isNone_iff_eq_none, beq_iff_eq] at h
    exact .pulseEnded l h.1 h.2
  next => exact .nothing _ s

theorem happens_fullReset (straps : Straps) : Happens (.fullReset straps) s (fullResetEvent straps s) := by
  unfold fullResetEvent
  split
  · split
    · exact .reset s _ straps (.inl rfl)
    · exact .nothing _ s
  · exact .nothing _ s

theorem happens_hardReset (cause : HardCause) : Happens (.hardReset cause) s (beginHardReset cause s) := by
  unfold beginHardReset
  split
  · exact .nothing _ s
  · exact .cut s cause

theorem happens_hardResetEnd (straps : Straps) : Happens (.hardResetEnd straps) s (endHardReset straps s) := by
  unfold endHardReset
  split
  · exact .reset s _ straps (.inr rfl)
  · exact .nothing _ s

/-- Where a command is no event in a hard reset, it happens out of it or not at all. -/
theorem happens_outside_reset {u : State} (h : Happens c s u) :
    Happens c s (if s.inReset.isSome then s else u) := by
  split
  exacts [.nothing c s, h]

/-- Every command does what its row names. -/
theorem exec_happens (h : exec c s = .next t) : Happens c s t := by
  cases c <;> cases h
  case resetDeviceFull => exact happens_resetDeviceFull
  case rxByte b => exact happens_outside_reset (.received s b)
  case frameAbandoned => exact happens_outside_reset (.abandoned s)
  case responsePlaced => exact happens_outside_reset (.placed s)
  case frameBoundary => exact happens_frameBoundary
  case idleArbiterChoice => exact happens_idleArbiterChoice
  case fullReset straps => exact happens_fullReset straps
  case hardReset cause => exact happens_hardReset cause
  case hardResetEnd straps => exact happens_hardResetEnd straps
  case sampleInstant levels => exact happens_sampleInstant levels
  case tickBoundary => exact happens_tickBoundary
  case taskUpdate k turns => exact happens_taskUpdate k turns
  case taskClock k turns => exact happens_taskClock k turns
  case deadlineExpiry k turns => exact happens_deadlineExpiry k turns
  case markExpiry l => exact happens_markExpiry l
  all_goals exact happens_request rfl

/-- A property that no waiting command bears on, and that every command keeps, is kept by every step. -/
theorem step_keeps {P : State → Prop} (hpending : ∀ s pending, P s → P { s with pending := pending })
    (hkept : ∀ c s t, Happens c s t → P s → P t) (hs : P s) (h : step s = .next t) : P t := by
  unfold step at h
  split at h
  · cases h
    exact hs
  · exact hkept _ _ _ (exec_happens h) (hpending s _ hs)

end

end Sys2Proof.Machine
end

section
/-! What one event at the engines touches: the slot it is of, the slots that start on its completion, and the output lines these
slots name or own.  The report queue and the open events stay as they are until the event's offers wait. -/

namespace Sys2Proof.Machine

variable {s t u : State} {w : Work} {k j : Slot} {D D' : Slot → Prop} {a b : Task} {now : Time} {v : View}

/-! ### A change within some slots -/

/-- The output lines that the slots of `D` own or name. -/
def State.linesAt (s : State) (D : Slot → Prop) (l : OutLine) : Prop :=
  s.linesOf D l ∨ ∃ j a r, D j ∧ s.task? j = some a ∧ (l, r) ∈ outputsOf a.common a.engine.params

theorem Touches.linesAt_iff {L : OutLine → Prop} (h : Touches D' L s t) (l : OutLine) : t.linesAt D l ↔ s.linesAt D l := by
  refine or_congr (h.linesOf_iff l) (exists_congr fun j => ?_)
  have hfixed := h.fixed j
  cases hs : s.task? j with
  | none =>
    have : t.task? j = none := h.none_iff.2 hs
    simp [this]
  | some a =>
    obtain ⟨b, hb, hc, hp⟩ := h.task hs
    simp [hb, hc, hp]

theorem State.linesAt.mono {l : OutLine} (h : s.linesAt D l) (hD : ∀ j, D j → D' j) : s.linesAt D' l := by
  rcases h with ⟨j, r, hr, hj⟩ | ⟨j, a, r, hj, h⟩
  · exact .inl ⟨j, r, hr, hD j hj⟩
  · exact .inr ⟨j, a, r, hD j hj, h⟩

/-- From `s` to `t` only the slots of `D` and their output lines are touched, and the report queue and the open events are
left. -/
structure Quiet (D : Slot → Prop) (s t : State) : Prop where
  touches : Touches D (s.linesAt D) s t
  reports : t.reports = s.reports
  events : t.events = s.events

theorem Quiet.refl (s : State) : Quiet D s s := ⟨.refl s, rfl, rfl⟩

theorem Quiet.trans (h : Quiet D s t) (g : Quiet D t u) : Quiet D s u :=
  ⟨h.touches.trans (g.touches.mono (fun _ => id) fun l => (h.touches.linesAt_iff l).1), g.reports.trans h.reports,
    g.events.trans h.events⟩

theorem Quiet.mono (h : Quiet D s t) (hD : ∀ j, D j → D' j) : Quiet D' s t :=
  ⟨h.touches.mono hD fun _ hl => hl.mono hD, h.reports, h.events⟩

theorem fixed_of_params (hc : b.common = a.common) (hp : b.engine.params = a.engine.params) : b.fixed = a.fixed :=
  Prod.ext hc hp

theorem Quiet.setTask (hk : D k) (ha : s.task? k = some a) (hb : b.fixed = a.fixed) : Quiet D s (s.setTask k b) :=
  ⟨.setTask ha hb hk, rfl, rfl⟩

theorem Quiet.mapTask {f : Task → Task} (hk : D k) (hf : ∀ a, s.task? k = some a → (f a).fixed = a.fixed) :
    Quiet D s (s.mapTask k f) := by
  cases ha : s.task? k with
  | none => rw [s.mapTask_of_none k ha]; exact .refl s
  | some a => rw [s.mapTask_of_some k ha]; exact .setTask hk ha (hf a ha)

/-- A line that a slot of `D` names is driven or pulsed. -/
theorem Quiet.onOutput {l : OutLine} {r : OutRole} {f : Output → Output} (hk : D k) (ha : s.task? k = some a)
    (hl : (l, r) ∈ outputsOf a.common a.engine.params) (hidle : ∀ o, (f o).idle = o.idle)
    (howner : ∀ o, (f o).owner = o.owner) : Quiet D s (s.onOutput l f) :=
  ⟨.onOutput (.inr ⟨k, a, r, hk, ha, hl⟩) hidle howner, rfl, rfl⟩

theorem Quiet.fault {reason : FaultReason} (hk : D k) (ha : s.task? k = some a) : Quiet D s (s.fault k a reason) :=
  ⟨.fault ha hk fun _ r hr => .inl ⟨k, r, hr, hk⟩, rfl, rfl⟩

/-! ### The outputs a task names -/

theorem wave_mem {c : Common} {p : TrainParams} : (p.wave, OutRole.wave) ∈ outputsOf c (.pulseTrain p) := by
  simp [outputsOf]

theorem mark_mem {c : Common} {kind : KindParams} {m : Mark} (h : c.mark = some m) :
    (m.line, OutRole.mark) ∈ outputsOf c kind := by
  simp [outputsOf, h]

theorem alert_mem {c : Common} {p : DeadlineParams} {l : OutLine} (h : p.alert = some l) :
    (l, OutRole.alert) ∈ outputsOf c (.deadline p) := by
  simp [outputsOf, h]

theorem Quiet.driveWave {e : Engine} (hk : D k) (ha : s.task? k = some a) (he : e.params = a.engine.params) :
    Quiet D s (s.driveWave e) := by
  unfold State.driveWave
  split
  · split
    · exact .onOutput (r := .wave) hk ha (by rw [← he]; exact wave_mem) (fun _ => rfl) fun _ => rfl
    · exact .refl s
  all_goals exact .refl s

theorem Quiet.idleWave {e : Engine} (hk : D k) (ha : s.task? k = some a) (he : e.params = a.engine.params) :
    Quiet D s (s.idleWave e) := by
  unfold State.idleWave
  split
  · exact .onOutput (r := .wave) hk ha (by rw [← he]; exact wave_mem) (fun _ => rfl) fun _ => rfl
  all_goals exact .refl s

theorem Quiet.markEvent (hk : D k) : Quiet D s (s.markEvent k now) := by
  unfold State.markEvent
  split
  next a ha =>
    split
    next m hm => exact .onOutput hk ha (mark_mem hm) (fun _ => rfl) fun _ => rfl
    next => exact .refl s
  next => exact .refl s

theorem Quiet.driveAlert {p : DeadlineParams} {active : Bool} (hk : D k) (ha : s.task? k = some a)
    (he : a.engine.params = .deadline p) : Quiet D s (s.driveOpt p.alert active) := by
  unfold State.driveOpt
  split
  next l hl => exact .onOutput hk ha (he ▸ alert_mem hl) (fun _ => rfl) fun _ => rfl
  next => exact .refl s

/-! ### Runs that begin -/

@[simp] theorem params_fresh (segments : Prog → List Segment) (level : InLine → Cond) (e : Engine) :
    (e.fresh segments level).params = e.params := by cases e <;> rfl

@[simp] theorem params_nextRun (segments : Prog → List Segment) (level : InLine → Cond) (carry : Bool) (e : Engine) :
    (e.nextRun segments level now carry).params = e.params := by
  cases e with
  | span p r =>
    rw [Engine.nextRun]
    split <;> rfl
  | _ => rfl

@[simp] theorem params_releaseWait (e : Engine) : e.releaseWait.params = e.params := by cases e <;> rfl

@[simp] theorem Task.begun_fixed (a : Task) (segments : Prog → List Segment) (level : InLine → Cond) (now : Time) :
    (a.begun segments level now).fixed = a.fixed := by simp [Task.fixed, Task.begun]

@[simp] theorem Task.left_fixed (a : Task) (st : TaskState) : (a.left st).fixed = a.fixed := by
  simp [Task.fixed, Task.left]

@[simp] theorem Task.movedOn_fixed (a : Task) (segments : Prog → List Segment) (level : InLine → Cond) (now : Time)
    (carry : Bool) : (a.movedOn segments level now carry).fixed = a.fixed := by
  unfold Task.movedOn
  split
  case h_2 => simp [Task.fixed]
  all_goals exact a.left_fixed _

theorem Quiet.beginRun (level : InLine → Cond) (hk : D k) : Quiet D s (s.beginRun k level now) := by
  unfold State.beginRun
  split
  next a ha =>
    exact (Quiet.setTask hk ha (a.begun_fixed ..)).trans
      (.driveWave hk (s.task?_setTask_self k _) rfl)
  next => exact .refl s

theorem Quiet.foldl_beginRun (members : List Slot) (h : ∀ j ∈ members, D j) :
    Quiet D s (members.foldl (fun s j => s.beginRun j s.levelNow now) s) := by
  induction members generalizing s with
  | nil => exact .refl s
  | cons m rest ih => exact (Quiet.beginRun _ (h m (by simp))).trans (ih fun j hj => h j (by simp [hj]))

/-! ### An event within some slots -/

/-- The event `w`, begun in the state `s`, has touched no slot but those of `D`, and offers reports of these alone. -/
structure Work.Within (D : Slot → Prop) (s : State) (w : Work) : Prop where
  quiet : Quiet D s w.st
  offers : ∀ o ∈ w.own ++ w.free, D o.slot

theorem Work.Within.of (s : State) : (Work.of s).Within D s := ⟨.refl s, by simp⟩

theorem Work.Within.mono (h : w.Within D s) (hD : ∀ j, D j → D' j) : w.Within D' s :=
  ⟨h.quiet.mono hD, fun o ho => hD _ (h.offers o ho)⟩

theorem Work.Within.on (h : w.Within D s) {f : State → State} (hf : Quiet D w.st (f w.st)) : (w.on f).Within D s :=
  ⟨h.quiet.trans hf, h.offers⟩

theorem Work.Within.offer (h : w.Within D s) (hk : D k) (r : Report) : (w.offer k r).Within D s := by
  refine ⟨h.quiet, fun o ho => ?_⟩
  simp only [Work.offer_own, Work.offer_free, List.append_assoc, List.mem_append, List.mem_singleton] at ho
  rcases ho with ho | rfl | ho
  · exact h.offers o (List.mem_append_left _ ho)
  · exact hk
  · exact h.offers o (List.mem_append_right _ ho)

theorem Work.Within.offerFree (h : w.Within D s) (hk : D k) (r : Report) : (w.offerFree k r).Within D s := by
  refine ⟨h.quiet, fun o ho => ?_⟩
  simp only [Work.offerFree_own, Work.offerFree_free, List.mem_append, List.mem_singleton] at ho
  rcases ho with ho | ho | rfl
  · exact h.offers o (List.mem_append_left _ ho)
  · exact h.offers o (List.mem_append_right _ ho)
  · exact hk

theorem Work.Within.offerStarted (h : w.Within D s) (hk : D k) (cause : StartCause) :
    (w.offerStarted k cause).Within D s := by
  unfold Work.offerStarted
  split
  · split
    exacts [h.offerFree hk _, h]
  · exact h

theorem Work.Within.foldl_offerStarted (cause : StartCause) (members : List Slot) (hm : ∀ j ∈ members, D j)
    (h : w.Within D s) : (members.foldl (fun w j => w.offerStarted j cause) w).Within D s := by
  induction members generalizing w with
  | nil => exact h
  | cons m rest ih => exact ih (fun j hj => hm j (by simp [hj])) (h.offerStarted (hm m (by simp)) cause)

theorem Work.Within.offerDone (h : w.Within D s) (hk : D k) (before : Task) : (w.offerDone k before).Within D s := by
  unfold Work.offerDone
  split
  · split
    exacts [h.offerFree hk _, h]
  · exact h

theorem Work.Within.setEngine {e : Engine} (h : w.Within D s) (hk : D k) (ha : s.task? k = some a)
    (he : e.params = a.engine.params) : (w.setEngine k e).Within D s := by
  refine h.on (.mapTask hk fun b hb => ?_)
  obtain ⟨b', hb', hc, hp⟩ := h.quiet.touches.task ha
  rw [hb] at hb'
  cases hb'
  simp [Task.fixed, he, hp]

theorem Work.Within.fault (h : w.Within D s) (hk : D k) (reason : FaultReason) : (w.fault k reason).Within D s := by
  unfold Work.fault
  split
  · exact h
  next b hb =>
    refine ⟨h.quiet.trans (.fault hk hb), fun o ho => ?_⟩
    simp only [List.append_assoc, List.mem_append, List.mem_singleton] at ho
    rcases ho with ho | rfl | ho
    · exact h.offers o (List.mem_append_left _ ho)
    · exact hk
    · exact h.offers o (List.mem_append_right _ ho)

/-- The record of the slot within the event. -/
theorem Work.Within.task (h : w.Within D s) (ha : s.task? k = some a) :
    ∃ b, w.st.task? k = some b ∧ b.common = a.common ∧ b.engine.params = a.engine.params := h.quiet.touches.task ha

/-- The slot of an event, and the slots that start on its completion (R13). -/
def State.reach (s : State) (k : Slot) (j : Slot) : Prop := j = k ∨ j ∈ s.dependents k

theorem mem_concerned : j ∈ s.concerned k ↔ s.reach k j := List.mem_cons

/-- An event that has touched its own slot alone. -/
abbrev Work.Own (k : Slot) (s : State) (w : Work) : Prop := w.Within (fun j => j = k) s

theorem Work.Within.reach (h : w.Own k s) : w.Within (s.reach k) s := h.mono fun _ hj => .inl hj

theorem Work.Own.set (h : w.Own k s) (ha : s.task? k = some a) (e : Engine) (he : a.engine.params = e.params) :
    (w.setEngine k e).Own k s :=
  h.setEngine (D := fun j => j = k) rfl ha he.symm

theorem Work.Own.offer (h : w.Own k s) (r : Report) : (w.offer k r).Own k s :=
  Work.Within.offer (D := fun j => j = k) h rfl r

theorem Work.Own.markEvent (h : w.Own k s) : (w.on fun s => s.markEvent k now).Own k s :=
  h.on (f := fun s => s.markEvent k now) (.markEvent (D := fun j => j = k) rfl)

/-- A completion reaches the dependents too. -/
theorem Work.Own.complete (h : w.Own k s) (carry : Bool) : (w.complete k now carry).Within (s.reach k) s := by
  have hdeps : ∀ j ∈ w.st.dependents k, s.reach k j := by
    intro j hj
    by_cases hjk : j = k
    · exact .inl hjk
    · obtain ⟨b, hb, harmed⟩ := (mem_dependents _ _ _).1 hj
      rw [h.quiet.touches.slots j hjk] at hb
      exact .inr ((mem_dependents _ _ _).2 ⟨b, hb, harmed⟩)
  have hk : s.reach k k := .inl rfl
  have hw : w.Within (s.reach k) s := h.reach
  unfold Work.complete
  split
  · exact hw
  next b hb =>
    dsimp only
    have hstart : Quiet (s.reach k) w.st ((w.st.dependents k).foldl (fun s j => s.beginRun j s.levelNow now)
        (w.st.setTask k { b with runCount := sat16 b.runCount })) :=
      (Quiet.setTask hk hb (b := { b with runCount := sat16 b.runCount }) rfl).trans (.foldl_beginRun _ hdeps)
    refine .foldl_offerStarted _ _ hdeps (.offerDone ((hw.on (f := fun s => (w.st.dependents k).foldl
      (fun s j => s.beginRun j s.levelNow now) (s.setTask k { b with runCount := sat16 b.runCount })) hstart).on ?_) hk _)
    obtain ⟨c, hc, hcommon, hparams⟩ := hstart.touches.task hb
    have hfixed : c.fixed = b.fixed := Prod.ext hcommon hparams
    split
    · exact (Quiet.setTask hk hc (by rw [Task.movedOn_fixed, hfixed]; rfl)).trans
        (.driveWave hk (State.task?_setTask_self ..) rfl)
    · exact .setTask hk hc (by rw [Task.movedOn_fixed, hfixed]; rfl)

/-! ### The engines -/

section
variable (h : w.Own k s) (ha : s.task? k = some a)
include h ha

theorem Work.Own.trainBegin {p : TrainParams} (hp : a.engine.params = .pulseTrain p) (index loops : Nat) :
    (trainBegin k p index loops w).Own k s := by
  obtain ⟨b, hb, hc, hbp⟩ := h.task ha
  refine h.on (f := fun s => (s.mapTask k fun t => { t with engine := .pulseTrain p _ }).driveWave (.pulseTrain p _)) ?_
  rw [State.mapTask_of_some _ _ hb]
  refine Quiet.trans ?_ (.driveWave (D := fun j => j = k) rfl (State.task?_setTask_self ..) rfl)
  exact .setTask rfl hb (fixed_of_params rfl (hbp.trans hp).symm)

theorem Work.Own.trainLoopDone {p : TrainParams} (hp : a.engine.params = .pulseTrain p) (r : TrainRun) (stopping : Bool) :
    (trainLoopDone k now p r stopping w).Within (s.reach k) s := by
  unfold Machine.trainLoopDone
  dsimp only
  split
  · have hset := h.set ha (.pulseTrain p { r with remaining := 0, loopsDone := sat16 r.loopsDone, waiting := false }) hp
    obtain ⟨b, hb, hc, hbp⟩ := hset.task ha
    exact Work.Own.complete (.offer (hset.on (.idleWave (D := fun j => j = k)
      (e := .pulseTrain p { r with remaining := 0, loopsDone := sat16 r.loopsDone, waiting := false }) rfl hb
      (hbp.trans hp).symm)) _) false
  · exact (h.trainBegin ha hp _ _).reach

theorem Work.Own.trainSegmentEnd {p : TrainParams} (hp : a.engine.params = .pulseTrain p) (r : TrainRun)
    (stopping : Bool) : (trainSegmentEnd k now p r stopping w).Within (s.reach k) s := by
  unfold Machine.trainSegmentEnd
  dsimp only
  split <;> split <;> split
  all_goals first
    | exact ((h.offer _).trainBegin ha hp _ _).reach
    | exact (h.offer _).trainLoopDone ha hp _ _
    | exact (h.trainBegin ha hp _ _).reach
    | exact h.trainLoopDone ha hp _ _

theorem Work.Own.trainClock {p : TrainParams} (hp : a.engine.params = .pulseTrain p) (r : TrainRun) (stopping : Bool) :
    (trainClock k now p r stopping w).Within (s.reach k) s := by
  unfold Machine.trainClock
  split
  · exact h.reach
  · split
    · exact h.trainSegmentEnd ha hp _ _
    · exact (h.set ha (.pulseTrain p _) hp).reach

theorem Work.Own.countEdge {p : CountParams} (hp : a.engine.params = .eventCount p) (count : Nat) :
    (countEdge k now p count w).Within (s.reach k) s := by
  have hset := h.set ha (.eventCount p (count + 1)) hp
  unfold Machine.countEdge
  dsimp only
  split
  · exact (hset.offer _).markEvent.complete false
  · exact hset.reach

theorem Work.Own.spanClose {p : SpanParams} (hp : a.engine.params = .span p) (r : SpanRun) (overrange : Bool) :
    (spanClose k now p r overrange w).Within (s.reach k) s :=
  ((h.set ha (.span p { r with phase := .awaiting }) hp).offer _).markEvent.complete _

theorem Work.Own.spanClock {p : SpanParams} (hp : a.engine.params = .span p) (r : SpanRun) :
    (spanClock k now p r w).Within (s.reach k) s := by
  unfold Machine.spanClock
  split
  · exact h.reach
  · unfold spanTick
    split
    · exact h.spanClose ha hp _ _
    · exact (h.set ha (.span p _) hp).reach

theorem Work.Own.spanEdges {p : SpanParams} (hp : a.engine.params = .span p) (r : SpanRun) (clock running : Bool) :
    (spanEdges k v p r clock running w).Within (s.reach k) s := by
  have hset : ∀ x, (w.setEngine k (.span p x)).Own k s := fun x => h.set ha _ hp
  unfold Machine.spanEdges
  split
  · split
    · exact (hset _).reach
    · exact h.reach
  · cases clock with
    | false =>
      simp only [Bool.false_eq_true, if_false]
      split
      · exact h.spanClose ha hp _ _
      · exact h.reach
    | true =>
      simp only [if_true, spanTick]
      split
      · exact h.spanClose ha hp _ _
      · simp only [Bool.false_eq_true, if_false]
        split
        · exact (hset _).spanClose ha hp _ _
        · exact (hset _).reach

theorem Work.Own.windowTake {p : WindowParams} (hp : a.engine.params = .windowCount p) (r : WindowRun)
    (signal clock closing : Bool) : (windowTake k now p r signal clock closing w).Within (s.reach k) s := by
  have hset : ∀ x, (w.setEngine k (.windowCount p x)).Own k s := fun x => h.set ha _ hp
  unfold Machine.windowTake
  extract_lets count length ended limit
  split
  · exact ((hset _).offer _).markEvent.complete _
  · exact (hset _).reach

theorem Work.Own.windowClock {p : WindowParams} (hp : a.engine.params = .windowCount p) (r : WindowRun) :
    (windowClock k now p r w).Within (s.reach k) s := by
  unfold Machine.windowClock
  split
  · exact h.reach
  · exact h.windowTake ha hp _ _ _ _

theorem Work.Own.windowEdges {p : WindowParams} (hp : a.engine.params = .windowCount p) (r : WindowRun) (clock : Bool) :
    (windowEdges k v p r clock w).Within (s.reach k) s := by
  unfold Machine.windowEdges
  dsimp only
  split
  · split
    · exact (h.set ha (.windowCount p _) hp).reach
    · exact h.reach
  · exact h.windowTake ha hp _ _ _ _

theorem Work.Own.positionStep {p : PositionParams} (hp : a.engine.params = .position p) (r : PositionRun) (d : Direction) :
    (positionStep k now p r d w).Own k s := by
  unfold Machine.positionStep
  dsimp only
  have hset := h.set ha (.position p { r with position := d.step r.position }) hp
  split
  · exact (hset.offer _).markEvent
  · exact hset

theorem Work.Own.positionPhases {p : PositionParams} (hp : a.engine.params = .position p) (r : PositionRun) :
    (positionPhases k v p r w).Own k s := by
  unfold Machine.positionPhases
  dsimp only
  split
  · exact (h.set ha (.position p _) hp).offer _
  · split
    · exact h.positionStep ha hp _ _
    · exact h
  · split
    · exact h.positionStep ha hp _ _
    · exact h
  · exact h

theorem Work.Own.positionIndexCheck : (positionIndexCheck k v w).Own k s := by
  obtain ⟨b, hb, -, hbp⟩ := h.task ha
  unfold Machine.positionIndexCheck
  rw [hb]
  dsimp only
  split
  next p r he =>
    have hset : ∀ x, (w.setEngine k (.position p x)).Own k s := fun x =>
      h.set ha _ (by rw [← hbp, he]; rfl)
    split
    · unfold positionIndex
      dsimp only
      split
      · exact hset _
      · exact ((hset _).offer _).markEvent
    · exact hset _
  next => exact h

theorem Work.Own.deadlineViolation {p : DeadlineParams} (hp : a.engine.params = .deadline p) (r : DeadlineRun)
    (type : Violation) : (deadlineViolation k now p r type w).Within (s.reach k) s := by
  have hset := (h.offer (.deadlineViolation type r.elapsed)).set ha
    (.deadline p { r with alert := true, expiryDue := false }) hp
  obtain ⟨b, hb, -, hbp⟩ := hset.task ha
  have halert : (_ : Work).Own k s := hset.on (f := fun s => s.driveOpt p.alert true)
    (.driveAlert (D := fun j => j = k) rfl hb (hbp.trans hp))
  exact halert.complete _

theorem Work.Own.deadlineAccept {p : DeadlineParams} (hp : a.engine.params = .deadline p) :
    (deadlineAccept k p w).Own k s := by
  obtain ⟨b, hb, -, hbp⟩ := h.task ha
  refine h.on ?_
  rw [State.mapTask_of_some _ _ hb]
  refine Quiet.trans ?_ (.driveAlert (D := fun j => j = k) rfl (State.task?_setTask_self ..) rfl)
  exact .setTask rfl hb (fixed_of_params rfl (hbp.trans hp).symm)

theorem Work.Own.deadlineEdges {p : DeadlineParams} (hp : a.engine.params = .deadline p) (r : DeadlineRun) (clock : Bool) :
    (deadlineEdges k v p r clock w).Within (s.reach k) s := by
  have hset : ∀ x, (w.setEngine k (.deadline p x)).Own k s := fun x => h.set ha _ hp
  unfold Machine.deadlineEdges deadlineKick
  extract_lets r' w'
  split
  · split
    · exact (hset _).deadlineViolation ha hp _ _
    · exact ((hset _).deadlineAccept ha hp).reach
  · split
    · exact (hset _).deadlineViolation ha hp _ _
    · exact (hset _).reach

end

theorem Work.Own.workingEdges (h : w.Own k s) : (workingEdges k v w).Within (s.reach k) s := by
  unfold Machine.workingEdges
  split
  · exact h.reach
  next b hb =>
    split
    · cases ha : s.task? k with
      | none =>
        have := h.quiet.touches.none_iff.2 ha
        rw [hb] at this
        cases this
      | some a =>
        obtain ⟨b', hb', -, hbp⟩ := h.task ha
        rw [hb] at hb'
        cases hb'
        split
        next p r he =>
          have hp : a.engine.params = .pulseTrain p := by rw [← hbp, he]; rfl
          split
          exacts [h.trainClock ha hp _ _, h.reach]
        next p count he =>
          have hp : a.engine.params = .eventCount p := by rw [← hbp, he]; rfl
          split
          exacts [h.countEdge ha hp _, h.reach]
        next p r he => exact h.spanEdges ha (p := p) (by rw [← hbp, he]; rfl) _ _ _
        next p r he => exact h.windowEdges ha (p := p) (by rw [← hbp, he]; rfl) _ _
        next p r he =>
          have hp : a.engine.params = .position p := by rw [← hbp, he]; rfl
          split
          exacts [((h.positionPhases ha hp r).positionIndexCheck ha).reach, h.reach]
        next p r he => exact h.deadlineEdges ha (p := p) (by rw [← hbp, he]; rfl) _ _
    · exact h.reach

theorem Task.gated_fixed (a : Task) (v : View) : (a.gated v).fixed = a.fixed := by
  unfold Task.gated
  repeat' split
  all_goals rfl

theorem Work.Own.gateStep (h : w.Own k s) : (gateStep k v w).Own k s := by
  refine h.on (.mapTask rfl fun a _ => ?_)
  split
  exacts [a.gated_fixed v, rfl]

theorem Work.Own.triggerStep (h : w.Own k s) : (triggerStep k v w).1.Own k s := by
  unfold Machine.triggerStep
  split
  · exact h
  next a ha =>
    have hset : ∀ b : Task, b.fixed = a.fixed → (w.on fun s => s.setTask k b).Own k s := fun b hb =>
      h.on (.setTask rfl ha hb)
    split
    · exact h
    · extract_lets released counted overrun
      split
      · exact h
      · exact h
      · exact h
      · split
        · exact Work.Within.offerStarted (D := fun j => j = k)
            (h.on (f := fun s => s.beginRun k (v.level s) v.time) (.beginRun (D := fun j => j = k) _ rfl)) rfl _
        · exact h
      · split
        · exact hset _ (by simp [Task.fixed])
        · exact hset _ rfl
      · split
        · exact hset _ (by simp [Task.fixed])
        · split
          · exact hset _ rfl
          · exact ((hset counted rfl).offer _).on (f := fun s => s.beginRun k (v.level s) v.time)
              (.beginRun (D := fun j => j = k) _ rfl)
          · exact Work.Within.fault (D := fun j => j = k) (hset counted rfl) rfl _

/-! ### What an event leaves -/

/-- What an event at `now` within some slots leaves of a state: it touches these slots and their lines alone, and leaves one more
event open where it offers a report. -/
structure EventLeaves (D : Slot → Prop) (now : Time) (s t : State) : Prop where
  touches : Touches D (s.linesAt D) s t
  reports : t.reports = s.reports
  events : t.events = s.events ∨
    ∃ e, t.events = s.events ++ [e] ∧ e.epoch = s.timebase.epoch ∧ e.time = now ∧ e.lost = [] ∧ e.offers ≠ [] ∧
      ∀ o ∈ e.offers, D o.slot

theorem Work.Within.finish (h : w.Within D s) (now : Time) : EventLeaves D now s (w.finish now) := by
  unfold Work.finish
  split
  · exact ⟨h.quiet.touches, h.quiet.reports, .inl h.quiet.events⟩
  next hoffers =>
    refine ⟨h.quiet.touches.trans (touches_events _), h.quiet.reports,
      .inr ⟨⟨w.st.timebase.epoch, now, w.own, w.free, []⟩, ?_, ?_, rfl, rfl, ?_, h.offers⟩⟩
    · exact congrArg (· ++ _) h.quiet.events
    · exact congrArg Timebase.epoch h.quiet.touches.outside.blocks.timebase
    · simpa [OpenEvent.offers] using hoffers

theorem eventLeaves_nothing (now : Time) : EventLeaves D now s s := ⟨.refl s, rfl, .inl rfl⟩

theorem takeUpdate_leaves (k : Slot) (v : View) (s : State) : EventLeaves (s.reach k) v.time s (takeUpdate k v s) := by
  have h : (triggerStep k v (gateStep k v (Work.of s))).1.Own k s := (Work.Own.gateStep (.of s)).triggerStep
  unfold takeUpdate
  dsimp only
  split
  · exact h.workingEdges.finish v.time
  · exact h.reach.finish v.time

theorem engineClock_within (h : w.Own k s) (ha : s.task? k = some a) :
    (engineClock k now a w).Within (s.reach k) s := by
  unfold engineClock
  split
  next p r he => exact h.trainClock ha (p := p) (by rw [he]; rfl) _ _
  next => exact h.reach
  next p r he => exact h.spanClock ha (p := p) (by rw [he]; rfl) _
  next p r he => exact h.windowClock ha (p := p) (by rw [he]; rfl) _
  next => exact h.reach
  next p r he => exact (h.setEngine (e := .deadline p (r.tick p)) rfl ha (by rw [he]; rfl)).reach

theorem takeClock_leaves (k : Slot) (s : State) : EventLeaves (s.reach k) s.timebase.time s (takeClock k s) := by
  unfold takeClock
  split
  · exact eventLeaves_nothing _
  next a ha =>
    have h : (Work.of (s.setTask k { a with clockDue := false })).Own k s :=
      ⟨.setTask rfl ha rfl, by simp⟩
    exact (engineClock_within h ha).finish _

theorem takeExpiry_leaves (k : Slot) (s : State) : EventLeaves (s.reach k) s.timebase.time s (takeExpiry k s) := by
  unfold takeExpiry
  split
  · exact eventLeaves_nothing _
  next a ha =>
    split
    next p r he => exact (Work.Own.deadlineViolation (.of s) ha (p := p) (by rw [he]; rfl) _ _).finish _
    next => exact eventLeaves_nothing _

theorem startSlots_leaves (slots : List Slot) (cause : StartCause) (s : State) :
    EventLeaves (fun j => j ∈ slots) s.timebase.time s (startSlots slots cause s) :=
  (Work.Within.foldl_offerStarted cause slots (fun _ => id)
    ((Work.Within.of s).on (.foldl_beginRun slots fun _ => id))).finish _

theorem endRun_leaves (ending : Ending) (ha : s.task? k = some a) :
    EventLeaves (fun j => j = k) s.timebase.time s (endRun k a ending s) := by
  refine ((Work.Own.offer (k := k) ((Work.Within.of s).on (f := fun s => (s.setTask k (a.left .done)).idleWave a.engine)
    ?_) _)).finish _
  refine Quiet.trans (.setTask rfl ha (a.left_fixed _)) (.idleWave rfl (State.task?_setTask_self ..) ?_)
  simp [Task.left]

end Sys2Proof.Machine
end

section
/-! The refutation of the statement about the report queue: the soundness of the queue alone does not keep an event that is
still open from offering a GAP, which the queue takes like an ordinary report. -/

namespace Sys2Proof.Machine

/-- A GAP of no losses, offered by slot 0. -/
def strayGap : Offer := { slot := 0, reportClass := .normal, report := .gap 0 true }

/-- The reset state with that offer waiting in an open event, and a command whose turn the offer takes. -/
def strayGapWaits : State :=
  { State.reset with
    pending := [.taskUpdate 0 { order := [0], leave := true }]
    events := [{ epoch := 0, time := 0, own := [strayGap], free := [], lost := [] }] }

/-- What the queue makes of the offer: an entry with a GAP of no losses. -/
def strayGapTaken : Entry :=
  { seq := 1, delivery := .pending, report := .gap 0 true, source := .slot 0, epoch := 0, time := 0 }

theorem strayGapWaits_reports_sound : strayGapWaits.reports.Sound := Tests.queueSound_of_ok (by decide +kernel)

theorem strayGap_is_taken : ∃ t, step strayGapWaits = .next t ∧ strayGapTaken ∈ t.reports.entries :=
  ⟨_, rfl, by decide +kernel⟩

/-- Refutes O53: the statement takes any state with a sound report queue, and one with an open event that offers a GAP of no
losses passes it to the queue, whose GAPs count 1 to 65535 losses (R140, R150).  No command of the model offers a GAP, so no
run reaches such a state. -/
theorem not_everyStepKeepsTheReportQueueSound : ¬ Obligations.EveryStepKeepsTheReportQueueSound := by
  intro h
  obtain ⟨t, hstep, hmem⟩ := strayGap_is_taken
  have hrange := (h strayGapWaits t strayGapWaits_reports_sound hstep).gapRange strayGapTaken hmem 0 true rfl
  exact absurd hrange.1 (by decide)

end Sys2Proof.Machine
end

section
/-! The soundness of the host link is kept by every step: what each operation of the link keeps of `Link.Sound`, and which of
them each command is. -/

namespace Sys2Proof.Machine

variable {c : Instr} {s t : State} {l : Link} {b : Byte} {f : OutFrame}

/-! ### What a command makes of the link -/

theorem EventLeaves.link {D : Slot → Prop} {now : Time} (h : EventLeaves D now s t) : t.link = s.link := h.touches.outside.link

/-- Serving a request leaves the link, but for the counters that GET_LINK_STATUS clears and the opened flag. -/
theorem Served.link (h : Served c s t) :
    t.link = s.link ∨ t.link = s.link.clearCounters ∨ t.link = { s.link with opened := true } := by
  induction h with
  | same => exact .inl rfl
  | settled _ ih =>
    rw [(State.settle_outside _).link] at ih
    exact ih
  | countersCleared => exact .inr (.inl rfl)
  | openedClean => exact .inr (.inr rfl)
  | openedResume => exact .inr (.inr rfl)
  | defined s k c kind =>
    refine .inl ?_
    unfold State.define State.recount
    cases kind.program? <;> rfl
  | deleted s k t =>
    refine .inl ?_
    unfold State.delete State.recount
    cases t.engine.params.program? <;> rfl
  | armed s k t =>
    refine .inl ?_
    unfold State.driveOpt
    cases t.engine.alertLine? <;> rfl
  | started s k =>
    exact .inl ((State.endEventsOf_outside _ _).1.link.trans (startSlots_leaves _ _ s).link)
  | groupStarted s slots turns =>
    exact .inl ((State.endEventsOf_outside _ _).1.link.trans
      ((State.takeTurns_outside _ turns).link.trans (startSlots_leaves _ _ s).link))
  | runEnded s k t ending hk =>
    exact .inl ((State.endEventsOf_outside _ _).1.link.trans (endRun_leaves ending hk).link)
  | _ => exact .inl rfl

/-! ### The queues and the interpreter -/

theorem Link.Sound.not_onItsWay (h : l.Sound) (hi : l.interpreter ≠ .stopped none) : ¬l.ResetOkOnItsWay :=
  mt h.stoppedIff.2 hi

/-- Frames that leave the request queue leave the link sound. -/
theorem Link.Sound.requests_tail (h : l.Sound) : Link.Sound { l with requests := l.requests.tail } :=
  { h with requests := (List.length_tail.trans_le (Nat.sub_le ..)).trans h.requests }

theorem Link.Sound.clearCounters (h : l.Sound) : l.clearCounters.Sound :=
  { h with
    crcErrors := Nat.zero_le _
    oversizeFrames := Nat.zero_le _
    abandonedFrames := Nat.zero_le _
    droppedFrames := Nat.zero_le _ }

theorem Link.Sound.opened (h : l.Sound) : Link.Sound { l with opened := true } := { h with }

theorem length_append_place {α : Type} {queue : List α} {a : α} (h : hasPlace queue = true) : (queue ++ [a]).length ≤ 4 := by
  have := hasPlace_iff.1 h
  rw [List.length_append, List.length_singleton]
  omega

/-- The OK of a full reset is on its way behind an ordinary frame where it was so before. -/
theorem onItsWay_append (hf : f.endsInFullReset = false) (i : Interpreter) :
    Link.ResetOkOnItsWay { l with responses := l.responses ++ [f], interpreter := i } ↔ l.ResetOkOnItsWay := by
  simp [Link.ResetOkOnItsWay, or_and_right, exists_or, hf]

theorem Link.Sound.offerResponse (h : l.Sound) (hi : l.interpreter = .free) (hf : f.endsInFullReset = false) :
    (l.offerResponse f).Sound := by
  have hway : ¬l.ResetOkOnItsWay := h.not_onItsWay (by rw [hi]; nofun)
  unfold Link.offerResponse
  split
  next hplace =>
    exact
      { h with
        responses := length_append_place hplace
        waitingOrdinary := nofun
        heldOk := nofun
        stoppedIff := iff_of_false nofun ((onItsWay_append hf _).not.2 hway) }
  next =>
    exact
      { h with
        waitingOrdinary := fun g hg => by cases hg; exact hf
        heldOk := nofun
        stoppedIff := iff_of_false nofun hway }

theorem Link.Sound.stop (h : l.Sound) (hi : l.interpreter = .free) (hf : f.endsInFullReset = true) : (l.stop f).Sound := by
  have hway : ¬l.ResetOkOnItsWay := h.not_onItsWay (by rw [hi]; nofun)
  unfold Link.stop
  split
  next hplace =>
    exact
      { h with
        responses := length_append_place hplace
        waitingOrdinary := nofun
        heldOk := nofun
        stoppedIff := iff_of_true rfl (.inl ⟨f, by simp, hf⟩) }
  next =>
    exact
      { h with
        waitingOrdinary := nofun
        heldOk := fun g hg => by cases hg; exact hf
        stoppedIff := iff_of_false nofun hway }

theorem Link.Sound.placeHeld (h : l.Sound) : l.placeHeld.Sound := by
  unfold Link.placeHeld
  split
  next hplace =>
    split
    next => exact h
    next f hi =>
      have hf := h.waitingOrdinary f hi
      exact
        { h with
          responses := length_append_place hplace
          waitingOrdinary := nofun
          heldOk := nofun
          stoppedIff := iff_of_false nofun ((onItsWay_append hf _).not.2 (h.not_onItsWay (by rw [hi]; nofun))) }
    next f hi =>
      exact
        { h with
          responses := length_append_place hplace
          waitingOrdinary := nofun
          heldOk := nofun
          stoppedIff := iff_of_true rfl (.inl ⟨f, by simp, h.heldOk f hi⟩) }
    next => exact h
  next => exact h

/-- A BUSY response or a notice is ordinary. -/
theorem Link.Sound.offerOrDrop (h : l.Sound) (hf : f.endsInFullReset = false) : (l.offerOrDrop f).Sound := by
  unfold Link.offerOrDrop
  split
  next hplace =>
    exact
      { h with
        responses := length_append_place hplace
        stoppedIff := h.stoppedIff.trans (onItsWay_append hf _).symm }
  next => exact { h with droppedFrames := sat16_le _ }

/-! ### The receiver -/

theorem Link.Sound.hunting (h : l.Sound) : Link.Sound { l with receiver := .hunting } := { h with receiver := trivial }

theorem Link.Sound.admitFrame (h : l.Sound) (g : Frame) : (l.admitFrame g).Sound := by
  unfold Link.admitFrame
  split
  next hplace => exact { h with requests := length_append_place hplace }
  next => exact h.offerOrDrop rfl

theorem Link.Sound.judge (h : l.Sound) (len : Nat) (bytes : List Byte) (crc : BitVec 16) (low : Byte) :
    (l.judge len bytes crc low).Sound := by
  unfold Link.judge
  dsimp only
  split
  next => exact h.hunting.admitFrame _
  next => exact Link.Sound.offerOrDrop { h.hunting with crcErrors := sat16_le _ } rfl

theorem crcOf_append_byte (bytes : List Byte) (b : Byte) : crcOf (bytes ++ [b]) = crcByte (crcOf bytes) b := by
  rw [crcOf, crcOf, List.foldl_append]
  rfl

theorem Link.Sound.takeBody {len : Nat} {bytes : List Byte} {crc : BitVec 16} (h : l.Sound)
    (hr : l.receiver = .body len bytes crc) : (l.takeBody len bytes crc b).Sound := by
  have hbody : (Receiver.body len bytes crc).Sound := hr ▸ h.receiver
  obtain ⟨hlen, -, hcrc⟩ := hbody
  unfold Link.takeBody
  split
  next hmore =>
    refine { h with receiver := ⟨hlen, ?_, ?_⟩ }
    · rw [List.length_append, List.length_singleton]
      omega
    · rw [List.take_of_length_le (by omega)] at hcrc
      rw [List.take_of_length_le (by rw [List.length_append, List.length_singleton]; omega), ← List.cons_append,
        crcOf_append_byte, ← hcrc]
  next =>
    split
    next hlast =>
      refine { h with receiver := ⟨hlen, ?_, ?_⟩ }
      · rw [List.length_append, hlast, List.length_singleton]
      · rw [List.take_append_of_le_length (by omega)]
        exact hcrc
    next => exact h.judge ..

theorem Link.Sound.takeLen (h : l.Sound) : (l.takeLen b).Sound := by
  unfold Link.takeLen
  split
  next hlen =>
    refine { h with receiver := ⟨hlen, Nat.zero_le _, ?_⟩ }
    rw [List.take_nil, BitVec.ofNat_toNat, BitVec.setWidth_eq]
    rfl
  next => exact Link.Sound.offerOrDrop { h.hunting with oversizeFrames := sat16_le _ } rfl

theorem Link.Sound.take (h : l.Sound) : (l.take b).Sound := by
  unfold Link.take
  split
  next =>
    split
    exacts [{ h with receiver := trivial }, h]
  next => exact h.takeLen
  next hr => exact h.takeBody hr

theorem Link.Sound.abandon (h : l.Sound) : l.abandon.Sound := by
  unfold Link.abandon
  split
  next => exact h
  all_goals exact { h.hunting with abandonedFrames := sat16_le _ }

/-! ### The transmitter -/

/-- No frame in transmission, where it was no OK of a full reset. -/
theorem Link.Sound.endFrame (h : l.Sound) (ht : ∀ x, l.transmission = some x → x.endsInFullReset = false) :
    Link.Sound { l with transmission := none } := by
  refine { h with stoppedIff := h.stoppedIff.trans (or_congr Iff.rfl (iff_of_false ?_ nofun)) }
  rintro ⟨x, hx, hends⟩
  rw [ht x hx] at hends
  cases hends

/-- The head of the response queue begins: it is on its way as before. -/
theorem Link.Sound.beginResponse {rest : List OutFrame} (h : l.Sound) (hr : l.responses = f :: rest)
    (ht : l.transmission = none) : Link.Sound { l with responses := rest, transmission := some f.transmission } := by
  have hlen := h.responses
  rw [hr, List.length_cons] at hlen
  refine { h with responses := Nat.le_of_succ_le hlen, stoppedIff := h.stoppedIff.trans ?_ }
  simp [Link.ResetOkOnItsWay, hr, ht, OutFrame.transmission, or_comm]

/-- A report begins, with no response waiting. -/
theorem Link.Sound.beginReport (h : l.Sound) (ht : l.transmission = none) (e : Entry) :
    Link.Sound { l with transmission := some e.transmission } := by
  refine { h with stoppedIff := h.stoppedIff.trans ?_ }
  simp [Link.ResetOkOnItsWay, ht, Entry.transmission]

theorem link_sound_arbitrate (h : s.link.Sound) (ht : s.link.transmission = none) : (arbitrate s).link.Sound := by
  unfold arbitrate
  split
  next f rest hr => exact h.beginResponse hr ht
  next =>
    split
    · split
      exacts [h.beginReport ht _, h]
    · exact h

/-! ### The commands -/

theorem Served.link_sound (hv : Served c s t) (h : s.link.Sound) :
    t.link.Sound ∧ t.link.interpreter = s.link.interpreter := by
  rcases hv.link with hl | hl | hl <;> rw [hl]
  exacts [⟨h, rfl⟩, ⟨h.clearCounters, rfl⟩, ⟨h.opened, rfl⟩]

theorem Link.Sound.cut (h : l.Sound) : l.cut.Sound where
  receiver := trivial
  requests := Nat.zero_le _
  responses := Nat.zero_le _
  crcErrors := h.crcErrors
  oversizeFrames := h.oversizeFrames
  abandonedFrames := h.abandonedFrames
  droppedFrames := h.droppedFrames
  waitingOrdinary := nofun
  heldOk := nofun
  stoppedIff := iff_of_false nofun (by simp [Link.ResetOkOnItsWay, Link.cut])

theorem link_sound_resetTo (pending : List Instr) (cause : ResetCause) (straps : Straps) :
    (resetTo pending cause straps).link.Sound where
  receiver := trivial
  requests := Nat.zero_le _
  responses := Nat.zero_le _
  crcErrors := Nat.zero_le _
  oversizeFrames := Nat.zero_le _
  abandonedFrames := Nat.zero_le _
  droppedFrames := Nat.zero_le _
  waitingOrdinary := nofun
  heldOk := nofun
  stoppedIff := iff_of_false nofun (by simp [Link.ResetOkOnItsWay, resetTo])

theorem Happens.link_sound (hv : Happens c s t) (h : s.link.Sound) : t.link.Sound := by
  induction hv with
  | nothing => exact h
  | settled _ ih =>
    rw [(State.settle_outside _).link] at ih
    exact ih h
  | request ht _ _ hserved =>
    obtain ⟨he, hi⟩ := hserved.link_sound h.requests_tail
    exact he.offerResponse (hi.trans ht.free) rfl
  | stopped ht => exact h.requests_tail.stop ht.free rfl
  | received => exact h.take
  | abandoned => exact h.abandon
  | placed => exact h.placeHeld
  | arbitrated hends => exact link_sound_arbitrate (h.endFrame hends) rfl
  | reset s cause straps => exact link_sound_resetTo ..
  | cut => exact h.cut
  | turned turns =>
    rw [(State.takeTurns_outside _ turns).link]
    exact h
  | updated k turns =>
    rw [(State.takeTurns_outside _ turns).link, (takeUpdate_leaves k _ _).link]
    exact h
  | clocked k turns =>
    rw [(State.takeTurns_outside _ turns).link, (takeClock_leaves k _).link]
    exact h
  | expired k turns =>
    rw [(State.takeTurns_outside _ turns).link, (takeExpiry_leaves k _).link]
    exact h
  | _ => exact h

/-- Settles O54: each operation keeps the link sound, the full reset's OK being the one flagged frame (R192). -/
theorem everyStepKeepsTheLinkSound : Obligations.EveryStepKeepsTheLinkSound := fun _ _ hs hstep =>
  step_keeps (P := fun s => s.link.Sound) (fun _ _ h => h) (fun _ _ _ hv => hv.link_sound) hs hstep

end Sys2Proof.Machine
end

section
/-! What defining and deleting a task make of the state, block by block: the slot, the claims, the owners and the program's
reference count (R6, R7, R35, R39, R64). -/

namespace Sys2Proof.Machine

variable {s : State} {u : LineUnit} {k j : Slot} {c : Common} {kind : KindParams} {t : Task} {f : Nat → Nat}

/-! ### Reference counts -/

section
variable (s kind f)

@[simp] theorem State.recount_pending : (s.recount kind f).pending = s.pending := by
  unfold State.recount; split <;> rfl
@[simp] theorem State.recount_inReset : (s.recount kind f).inReset = s.inReset := by
  unfold State.recount; split <;> rfl
@[simp] theorem State.recount_tasks : (s.recount kind f).tasks = s.tasks := by unfold State.recount; split <;> rfl
@[simp] theorem State.recount_lines : (s.recount kind f).lines = s.lines := by unfold State.recount; split <;> rfl
@[simp] theorem State.recount_timebase : (s.recount kind f).timebase = s.timebase := by
  unfold State.recount; split <;> rfl
@[simp] theorem State.recount_reports : (s.recount kind f).reports = s.reports := by
  unfold State.recount; split <;> rfl
@[simp] theorem State.recount_events : (s.recount kind f).events = s.events := by unfold State.recount; split <;> rfl
@[simp] theorem State.recount_link : (s.recount kind f).link = s.link := by unfold State.recount; split <;> rfl

/-- The count of the program a record names is changed, and nothing else of any program. -/
theorem State.recount_programs (p : Prog) :
    (s.recount kind f).programs.get p =
      { s.programs.get p with
        refCount := if kind.program? = some p then f (s.programs.get p).refCount else (s.programs.get p).refCount } := by
  unfold State.recount
  cases kind.program? with
  | none => rfl
  | some q =>
    by_cases hp : p = q
    · subst hp; simp
    · have hne : q ≠ p := fun e => hp e.symm
      simp [hp, hne]

end

/-! ### Claims and owners -/

theorem insertClaim_perm (x : Slot × InRole) (claims : List (Slot × InRole)) : (insertClaim x claims).Perm (x :: claims) := by
  induction claims with
  | nil => exact .refl _
  | cons d rest ih =>
    unfold insertClaim
    split
    · exact .refl _
    · exact (ih.cons d).trans (.swap x d rest)

/-- The claims of slot `k` in some roles, put into a claim set one by one. -/
def insertClaims (k : Slot) (roles : List (InLine × InRole)) (claims : List (Slot × InRole)) : List (Slot × InRole) :=
  roles.foldl (fun acc c => insertClaim (k, c.2) acc) claims

theorem insertClaims_perm (roles : List (InLine × InRole)) (claims : List (Slot × InRole)) :
    (insertClaims k roles claims).Perm (roles.map (fun c => (k, c.2)) ++ claims) := by
  induction roles generalizing claims with
  | nil => exact .refl _
  | cons x rest ih =>
    exact (ih (insertClaim (k, x.2) claims)).trans
      (((insertClaim_perm (k, x.2) claims).append_left _).trans List.perm_middle)

theorem foldl_claim_inputs (claims : List (InLine × InRole)) (u : LineUnit) (l : InLine) :
    (claims.foldl (fun u x => u.claim k x) u).inputs.get l =
      { u.inputs.get l with claims := insertClaims k (claims.filter fun c => c.1 == l) (u.inputs.get l).claims } := by
  induction claims generalizing u with
  | nil => rfl
  | cons x rest ih =>
    rw [List.foldl_cons, ih]
    by_cases hx : x.1 = l
    · subst hx
      simp [LineUnit.claim, insertClaims]
    · have hne : l ≠ x.1 := fun e => hx e.symm
      simp [LineUnit.claim, insertClaims, hx, hne]

theorem foldl_claim_frame (claims : List (InLine × InRole)) (u : LineUnit) :
    (claims.foldl (fun u x => u.claim k x) u).outputs = u.outputs ∧
      (claims.foldl (fun u x => u.claim k x) u).sampled = u.sampled := by
  induction claims generalizing u with
  | nil => exact ⟨rfl, rfl⟩
  | cons x rest ih => exact ih (u.claim k x)

theorem foldl_own_frame (outputs : List (OutLine × OutRole)) (u : LineUnit) :
    (outputs.foldl (fun u o => u.own k o) u).inputs = u.inputs ∧
      (outputs.foldl (fun u o => u.own k o) u).sampled = u.sampled := by
  induction outputs generalizing u with
  | nil => exact ⟨rfl, rfl⟩
  | cons x rest ih => exact ih (u.own k x)

/-- An output no role names is left. -/
theorem foldl_own_other (outputs : List (OutLine × OutRole)) (u : LineUnit) (l : OutLine) (h : l ∉ outputs.map Prod.fst) :
    (outputs.foldl (fun u o => u.own k o) u).outputs.get l = u.outputs.get l := by
  induction outputs generalizing u with
  | nil => rfl
  | cons x rest ih =>
    simp only [List.map_cons, List.mem_cons, not_or] at h
    rw [List.foldl_cons, ih _ h.2]
    simp [LineUnit.own, h.1]

/-- An output named in one role changes its owner alone. -/
theorem foldl_own_named {outputs : List (OutLine × OutRole)} (hnodup : (outputs.map Prod.fst).Nodup) (u : LineUnit)
    {l : OutLine} {r : OutRole} (h : (l, r) ∈ outputs) :
    (outputs.foldl (fun u o => u.own k o) u).outputs.get l = { u.outputs.get l with owner := .task k r } := by
  induction outputs generalizing u with
  | nil => cases h
  | cons x rest ih =>
    simp only [List.map_cons, List.nodup_cons] at hnodup
    rw [List.foldl_cons]
    rcases List.mem_cons.1 h with rfl | h
    · rw [foldl_own_other rest _ _ hnodup.1]
      simp [LineUnit.own]
    · have hne : l ≠ x.1 := fun e => hnodup.1 (e ▸ List.mem_map_of_mem (f := Prod.fst) h)
      rw [ih hnodup.2 _ h]
      simp [LineUnit.own, hne]

theorem foldl_own_level (outputs : List (OutLine × OutRole)) (u : LineUnit) (l : OutLine) :
    ((outputs.foldl (fun u o => u.own k o) u).outputs.get l).level = (u.outputs.get l).level ∧
      ((outputs.foldl (fun u o => u.own k o) u).outputs.get l).idle = (u.outputs.get l).idle ∧
      ((outputs.foldl (fun u o => u.own k o) u).outputs.get l).markEnd = (u.outputs.get l).markEnd := by
  induction outputs generalizing u with
  | nil => exact ⟨rfl, rfl, rfl⟩
  | cons x rest ih =>
    have hown : ((u.own k x).outputs.get l).level = (u.outputs.get l).level ∧
        ((u.own k x).outputs.get l).idle = (u.outputs.get l).idle ∧
        ((u.own k x).outputs.get l).markEnd = (u.outputs.get l).markEnd := by
      by_cases hl : l = x.1
      · subst hl; simp [LineUnit.own]
      · simp [LineUnit.own, hl]
    obtain ⟨h1, h2, h3⟩ := ih (u.own k x)
    obtain ⟨g1, g2, g3⟩ := hown
    exact ⟨h1.trans g1, h2.trans g2, h3.trans g3⟩

/-! ### A task defined -/

section
variable (s k c kind)

@[simp] theorem State.define_pending : (s.define k c kind).pending = s.pending := by simp [State.define]
@[simp] theorem State.define_inReset : (s.define k c kind).inReset = s.inReset := by simp [State.define]
@[simp] theorem State.define_timebase : (s.define k c kind).timebase = s.timebase := by simp [State.define]
@[simp] theorem State.define_reports : (s.define k c kind).reports = s.reports := by simp [State.define]
@[simp] theorem State.define_events : (s.define k c kind).events = s.events := by simp [State.define]
@[simp] theorem State.define_link : (s.define k c kind).link = s.link := by simp [State.define]

@[simp] theorem State.define_tasks : (s.define k c kind).tasks = (s.setTask k (definedTask s c kind)).tasks := by
  simp [State.define]

@[simp] theorem State.define_sampled : (s.define k c kind).lines.sampled = s.lines.sampled := by
  simp [State.define, foldl_own_frame, foldl_claim_frame]

@[simp] theorem State.define_programs : (s.define k c kind).programs = (s.recount kind Nat.succ).programs := by
  refine Bank.ext fun p => ?_
  rw [State.recount_programs, State.define]
  exact State.recount_programs ..

theorem State.task?_define : (s.define k c kind).task? j = if j = k then some (definedTask s c kind) else s.task? j := by
  rw [State.task?, State.define_tasks]
  split
  next h => subst h; simp
  next h => simp [h]; rfl

theorem State.define_inputs (l : InLine) :
    (s.define k c kind).lines.inputs.get l =
      { s.lines.inputs.get l with
        claims := insertClaims k ((claimsOf c kind).filter fun x => x.1 == l) (s.lines.inputs.get l).claims } := by
  simp [State.define, foldl_own_frame, foldl_claim_inputs]

theorem State.define_outputs :
    (s.define k c kind).lines.outputs =
      ((outputsOf c kind).foldl (fun u o => u.own k o)
        ((claimsOf c kind).foldl (fun u x => u.claim k x) s.lines)).outputs := by
  simp [State.define]

/-- An output the record does not name is left. -/
theorem State.define_outputs_other {l : OutLine} (h : l ∉ (outputsOf c kind).map Prod.fst) :
    (s.define k c kind).lines.outputs.get l = s.lines.outputs.get l := by
  rw [State.define_outputs, foldl_own_other _ _ _ h, (foldl_claim_frame ..).1]

/-- An output the record names changes its owner alone. -/
theorem State.define_outputs_named (hnodup : ((outputsOf c kind).map Prod.fst).Nodup) {l : OutLine} {r : OutRole}
    (h : (l, r) ∈ outputsOf c kind) :
    (s.define k c kind).lines.outputs.get l = { s.lines.outputs.get l with owner := .task k r } := by
  rw [State.define_outputs, foldl_own_named hnodup _ h, (foldl_claim_frame ..).1]

theorem State.define_level (l : OutLine) :
    ((s.define k c kind).lines.outputs.get l).level = (s.lines.outputs.get l).level ∧
      ((s.define k c kind).lines.outputs.get l).idle = (s.lines.outputs.get l).idle ∧
      ((s.define k c kind).lines.outputs.get l).markEnd = (s.lines.outputs.get l).markEnd := by
  rw [State.define_outputs, ← (foldl_claim_frame (k := k) (claimsOf c kind) s.lines).1]
  exact foldl_own_level ..

end

/-! ### A task deleted -/

section
variable (s k t)

@[simp] theorem State.delete_pending : (s.delete k t).pending = s.pending := by simp [State.delete]
@[simp] theorem State.delete_inReset : (s.delete k t).inReset = s.inReset := by simp [State.delete]
@[simp] theorem State.delete_timebase : (s.delete k t).timebase = s.timebase := by simp [State.delete]
@[simp] theorem State.delete_reports : (s.delete k t).reports = s.reports := by simp [State.delete]
@[simp] theorem State.delete_events : (s.delete k t).events = s.events := by simp [State.delete]
@[simp] theorem State.delete_link : (s.delete k t).link = s.link := by simp [State.delete]
@[simp] theorem State.delete_sampled : (s.delete k t).lines.sampled = s.lines.sampled := by simp [State.delete]

@[simp] theorem State.delete_programs : (s.delete k t).programs = (s.recount t.engine.params Nat.pred).programs := rfl

@[simp] theorem State.delete_slots : (s.delete k t).tasks.slots = s.tasks.slots.set k none := by simp [State.delete]

@[simp] theorem State.delete_updates : (s.delete k t).tasks.updates = s.tasks.updates.set k none := by simp [State.delete]

theorem State.task?_delete : (s.delete k t).task? j = if j = k then none else s.task? j := by
  rw [State.task?, State.delete_slots]
  split
  next h => subst h; simp
  next h => simp [h]; rfl

@[simp] theorem State.delete_inputs (l : InLine) :
    (s.delete k t).lines.inputs.get l =
      { s.lines.inputs.get l with claims := (s.lines.inputs.get l).claims.filter fun c => c.1 != k } := by
  simp [State.delete]

@[simp] theorem State.delete_outputs (l : OutLine) :
    (s.delete k t).lines.outputs.get l =
      if (s.lines.outputs.get l).ownedBy k then (s.lines.outputs.get l).release else s.lines.outputs.get l := by
  simp [State.delete]

end

end Sys2Proof.Machine
end

section
/-! Every frame fits its length: the data of every response, the record of every report, and what each operation of the link
keeps of `State.FramesFit` (R174). -/

namespace Sys2Proof.Machine

variable {c : Instr} {s t : State} {l : Link} {b : Byte} {f : Frame} {x : OutFrame} {r : Reply}

/-! ### The lengths of data -/

@[simp] theorem length_beBytes (n v : Nat) : (beBytes n v).length = n := by
  induction n generalizing v with
  | zero => rfl
  | succ n ih => rw [beBytes, List.length_cons, ih]

theorem length_frameBytes (type tag : Byte) (payload : List Byte) :
    (frameBytes type tag payload).length = payload.length + 6 := by
  simp [frameBytes]

theorem length_report_bytes (r : Report) : r.bytes.length ≤ 11 := by
  cases r <;> simp [Report.bytes]

theorem length_record (e : Entry) : e.record.length ≤ 22 := by
  have := length_report_bytes e.report
  simp only [Entry.record, List.length_append, length_beBytes, List.length_cons, List.length_nil]
  omega

theorem length_common_bytes (c : Common) (kind : KindParams) : (c.bytes kind).length = 19 := by
  unfold Common.bytes
  cases c.clock <;> cases c.trigger <;> cases c.start <;> cases c.gate <;> cases c.mark <;> rfl

theorem length_kind_bytes (kind : KindParams) : kind.bytes.length ≤ 16 := by
  cases kind with
  | windowCount p => simp only [KindParams.bytes]; split <;> simp
  | position p => simp only [KindParams.bytes]; split <;> simp
  | _ => simp [KindParams.bytes]

theorem length_queryData (k : Slot) (o : Option Task) : (queryData k o).length ≤ 119 := by
  cases o with
  | none => simp [queryData]
  | some a =>
    have h1 := length_common_bytes a.common a.engine.params
    have h2 := length_kind_bytes a.engine.params
    simp only [queryData, List.length_append, length_beBytes, List.length_cons, List.length_nil]
    omega

theorem length_countData (k : Slot) (now : Time) (o : Option Task) : (countData k now o).length ≤ 119 := by
  cases o with
  | none => simp [countData]
  | some a =>
    have h : a.engine.liveBytes.length ≤ 8 := by cases a.engine <;> simp [Engine.liveBytes]
    simp only [countData, List.length_append, length_beBytes, List.length_cons, List.length_nil]
    omega

theorem length_programData (p : Program) (first : Nat) : (programData p first).length ≤ 119 := by
  have h : ((p.segments.drop first).take 28).length ≤ 28 := List.length_take_le _ _
  have hflat : (((p.segments.drop first).take 28).flatMap Segment.bytes).length =
      4 * ((p.segments.drop first).take 28).length := by
    simp [List.length_flatMap, Segment.bytes, Nat.mul_comm]
  simp only [programData, Config.maxBatch, List.length_append, List.length_cons, List.length_nil, hflat]
  omega

theorem length_ownerCodes (o : Owner) : o.codes.length = 2 := by
  cases o with
  | task k r => cases r <;> rfl
  | _ => rfl

theorem length_linesData {u : LineUnit} (h : ∀ l, (u.inputs.get l).claims.length ≤ 4) (detail : Option InLine) :
    (linesData u detail).length ≤ 119 := by
  have hin : (u.inputs.cells.flatMap Input.bytes).length = 60 := by
    simp [List.length_flatMap, Input.bytes, u.inputs.size_eq]
  have hout : (u.outputs.cells.flatMap Output.bytes).length = 32 := by
    simp [List.length_flatMap, Output.bytes, length_ownerCodes, u.outputs.size_eq]
  have hdetail : (detailBytes u detail).length ≤ 10 := by
    cases detail with
    | none => simp [detailBytes]
    | some l =>
      have := h l
      simp only [detailBytes, List.length_cons, List.length_flatMap, List.map_const', List.sum_replicate, smul_eq_mul,
        List.length_nil]
      omega
  simp only [linesData, List.length_append]
  omega

theorem length_linkStatusData (l : Link) (session : Option Nat) : (linkStatusData l session).length = 12 := by
  cases session <;> simp [linkStatusData]

/-! ### The data of a reply -/

/-- The response with this reply fits a frame: a status byte and the data. -/
def Reply.Fits (r : Reply) : Prop := r.data.length ≤ 119

theorem fits_refuse (st : Status) : (refuse s st).2.Fits := Nat.zero_le _

theorem fits_withLen {n : Nat} {y : State × Reply} (h : y.2.Fits) : (withLen n f s y).2.Fits := by
  unfold withLen
  split
  exacts [h, fits_refuse _]

theorem fits_inStates {accepts : TaskState → Bool} {effect : Task → State} {o : Option Task} :
    (inStates s accepts effect o).2.Fits := by
  unfold inStates
  repeat' split
  all_goals exact Nat.zero_le _

theorem fits_onSlot {serve : Slot → State → Option Task → State × Reply} (h : ∀ k e o, (serve k e o).2.Fits) :
    (onSlot f s serve).2.Fits := by
  unfold onSlot
  split
  exacts [fits_refuse _, h _ _ _]

theorem fits_queueData (q : ReportQueue) : (Reply.okWith q.data).Fits := by
  simp [Reply.Fits, Reply.okWith, ReportQueue.data]

theorem fits_openWith {mode : ReportQueue → ReportQueue} : (openWith mode f s).2.Fits := by
  unfold openWith
  dsimp only
  split
  exacts [fits_queueData _, fits_refuse _]

theorem fits_onNamed {effect : Seq → ReportQueue → ReportQueue} : (onNamed f s effect).2.Fits := by
  refine fits_withLen ?_
  split
  · exact fits_refuse _
  · split
    exacts [fits_queueData _, fits_refuse _]

theorem fits_getLines (h : ∀ l, (s.lines.inputs.get l).claims.length ≤ 4) : (serveGetLines f s).2.Fits := by
  refine fits_withLen ?_
  split
  · exact fits_refuse _
  · refine length_linesData (fun l => ?_) _
    rw [(s.readyFor_outside _).blocks.inputs]
    exact h l

theorem fits_setOutputWith {effect : Output → Output} : (setOutputWith effect f s).2.Fits := by
  unfold setOutputWith
  repeat' split
  all_goals exact Nat.zero_le _

/-- Every reply fits, as every list of claims fits a line. -/
theorem service_fits {serve : Frame → State → State × Reply} (hc : serviceOf c = some serve)
    (h : ∀ l, (s.lines.inputs.get l).claims.length ≤ 4) : (serve f s).2.Fits := by
  cases c <;> cases hc
  case getIdentity => exact fits_withLen (by simp [Reply.Fits, Reply.okWith, identityData])
  case getLinkStatus =>
    refine fits_withLen ?_
    split
    · exact fits_refuse _
    · exact (length_linkStatusData ..).trans_le (by decide)
  case openSessionClean => exact fits_openWith
  case openSessionResume => exact fits_openWith
  case ackReports => exact fits_onNamed
  case resendReports => exact fits_onNamed
  case getTime => exact fits_withLen (by simp [Reply.Fits, Reply.okWith, timeData])
  case getLines => exact fits_getLines h
  case getProgram =>
    refine fits_withLen ?_
    split
    · exact fits_refuse _
    · split
      exacts [fits_refuse _, length_programData ..]
  case queryTask => exact fits_withLen (fits_onSlot fun k _ o => length_queryData k o)
  case readCount => exact fits_withLen (fits_onSlot fun k e o => length_countData k e.timebase.time o)
  case setOutputActive => exact fits_setOutputWith
  case setOutputIdle => exact fits_setOutputWith
  case setOutputRelease => exact fits_setOutputWith
  case deleteTask => exact fits_withLen (fits_onSlot fun _ _ _ => fits_inStates)
  case armTask => exact fits_withLen (fits_onSlot fun _ _ _ => fits_inStates)
  case disarmTask => exact fits_withLen (fits_onSlot fun _ _ _ => fits_inStates)
  case startTask => exact fits_withLen (fits_onSlot fun _ _ _ => fits_inStates)
  case stopTaskGraceful => exact fits_onSlot fun _ _ _ => fits_inStates
  case stopTaskAbort => exact fits_onSlot fun _ _ _ => fits_inStates
  case resetDeviceTasks => exact Nat.zero_le _
  case unknownRequest => exact Nat.zero_le _
  case startGroup =>
    refine fits_withLen ?_
    dsimp only
    repeat' split
    all_goals exact Nat.zero_le _
  case setPosition =>
    refine fits_withLen (fits_onSlot fun _ _ o => ?_)
    repeat' split
    all_goals exact Nat.zero_le _
  case loadProgram =>
    unfold serveLoadProgram
    dsimp only
    repeat' split
    all_goals exact Nat.zero_le _
  case appendProgram =>
    unfold serveAppendProgram
    dsimp only
    repeat' split
    all_goals exact Nat.zero_le _
  case defineTask =>
    unfold serveDefineTask defineChecked
    repeat' split
    all_goals exact Nat.zero_le _
  case setTick =>
    refine fits_withLen ?_
    dsimp only
    repeat' split
    all_goals exact Nat.zero_le _
  all_goals
    refine fits_withLen ?_
    repeat' split
    all_goals exact Nat.zero_le _

/-! ### The frames of the link -/

/-- Every response, queued, held or in transmission, fits. -/
structure Link.Fits (l : Link) : Prop where
  queued : ∀ x ∈ l.responses, x.payload.length ≤ 120
  held : ∀ x, l.interpreter.held = some x → x.payload.length ≤ 120
  sending : ∀ x, l.transmission = some x → x.bytes.length ≤ 126

theorem Link.Fits.append (h : l.Fits) (hx : x.payload.length ≤ 120) :
    ∀ y ∈ l.responses ++ [x], y.payload.length ≤ 120 := by
  intro y hy
  rcases List.mem_append.1 hy with hy | hy
  · exact h.queued y hy
  · rw [List.mem_singleton.1 hy]
    exact hx

theorem Link.Fits.offerResponse (h : l.Fits) (hx : x.payload.length ≤ 120) : (l.offerResponse x).Fits := by
  unfold Link.offerResponse
  split
  · exact ⟨h.append hx, nofun, h.sending⟩
  · exact ⟨h.queued, fun y hy => by cases hy; exact hx, h.sending⟩

theorem Link.Fits.stop (h : l.Fits) (hx : x.payload.length ≤ 120) : (l.stop x).Fits := by
  unfold Link.stop
  split
  · exact ⟨h.append hx, nofun, h.sending⟩
  · exact ⟨h.queued, fun y hy => by cases hy; exact hx, h.sending⟩

theorem Link.Fits.placeHeld (h : l.Fits) : l.placeHeld.Fits := by
  unfold Link.placeHeld
  split
  · split
    next => exact h
    next hi => exact ⟨h.append (h.held _ (by rw [hi]; rfl)), nofun, h.sending⟩
    next hi => exact ⟨h.append (h.held _ (by rw [hi]; rfl)), nofun, h.sending⟩
    next => exact h
  · exact h

theorem Link.Fits.offerOrDrop (h : l.Fits) (hx : x.payload.length ≤ 120) : (l.offerOrDrop x).Fits := by
  unfold Link.offerOrDrop
  split
  exacts [⟨h.append hx, h.held, h.sending⟩, ⟨h.queued, h.held, h.sending⟩]

theorem Link.Fits.take (h : l.Fits) : (l.take b).Fits := by
  have hsame : ∀ receiver requests crcErrors oversizeFrames, Link.Fits
      { l with receiver := receiver, requests := requests, crcErrors := crcErrors, oversizeFrames := oversizeFrames } :=
    fun _ _ _ _ => ⟨h.queued, h.held, h.sending⟩
  have hbody : ∀ len bytes crc, (l.takeBody len bytes crc b).Fits := by
    intro len bytes crc
    unfold Link.takeBody Link.judge Link.admitFrame
    dsimp only
    repeat' split
    · exact hsame ..
    · exact hsame ..
    · exact hsame ..
    · exact Link.Fits.offerOrDrop (hsame ..) (by simp [Frame.answer, Reply.refuse])
    · exact Link.Fits.offerOrDrop (hsame ..) (by simp [noticeFrame])
  unfold Link.take
  split
  · split
    exacts [hsame .., h]
  · unfold Link.takeLen
    split
    exacts [hsame .., Link.Fits.offerOrDrop (hsame ..) (by simp [noticeFrame])]
  · exact hbody ..

theorem Link.Fits.abandon (h : l.Fits) : l.abandon.Fits := by
  unfold Link.abandon
  split <;> exact ⟨h.queued, h.held, h.sending⟩

theorem link_fits_arbitrate (h : s.link.Fits) : (arbitrate s).link.Fits := by
  unfold arbitrate
  split
  next f rest hr =>
    refine ⟨fun y hy => h.queued y (by rw [hr]; exact List.mem_cons_of_mem _ hy), h.held, fun y hy => ?_⟩
    cases hy
    have := h.queued f (by rw [hr]; exact List.mem_cons_self ..)
    rw [OutFrame.transmission, length_frameBytes]
    omega
  next =>
    split
    · split
      next e _ _ =>
        refine ⟨h.queued, h.held, fun y hy => ?_⟩
        cases hy
        have := length_record e
        rw [Entry.transmission, length_frameBytes]
        omega
      next => exact h
    · exact h

/-! ### The commands -/

theorem Served.link_fits (hv : Served c s t) (h : s.link.Fits) : t.link.Fits := by
  rcases hv.link with hl | hl | hl <;> rw [hl]
  all_goals exact ⟨h.queued, h.held, h.sending⟩

theorem Happens.link_fits (hv : Happens c s t) (hclaims : ∀ l, (s.lines.inputs.get l).claims.length ≤ 4)
    (h : s.link.Fits) : t.link.Fits := by
  induction hv with
  | nothing => exact h
  | @settled _ s _ _ ih =>
    have hout := s.settle_outside
    rw [hout.link, hout.blocks.inputs] at ih
    exact ih hclaims h
  | @request _ s _ _ f _ _ _ _ hc hserve hserved =>
    have hfits := service_fits (s := s.popRequest) (f := f) hc hclaims
    rw [hserve] at hfits
    exact (hserved.link_fits ⟨h.queued, h.held, h.sending⟩).offerResponse (Nat.succ_le_succ hfits)
  | stopped ht => exact Link.Fits.stop ⟨h.queued, h.held, h.sending⟩ (by simp [Frame.answer, Reply.ok])
  | received => exact h.take
  | abandoned => exact h.abandon
  | placed => exact h.placeHeld
  | arbitrated => exact link_fits_arbitrate ⟨h.queued, h.held, nofun⟩
  | reset => exact ⟨by simp [resetTo], nofun, nofun⟩
  | cut => exact ⟨by simp [Link.cut], nofun, nofun⟩
  | turned turns =>
    rw [(State.takeTurns_outside _ turns).link]
    exact h
  | updated k turns =>
    rw [(State.takeTurns_outside _ turns).link, (takeUpdate_leaves k _ _).link]
    exact h
  | clocked k turns =>
    rw [(State.takeTurns_outside _ turns).link, (takeClock_leaves k _).link]
    exact h
  | expired k turns =>
    rw [(State.takeTurns_outside _ turns).link, (takeExpiry_leaves k _).link]
    exact h
  | _ => exact h

/-! ### The claims of a line -/

theorem EventLeaves.inputs {D : Slot → Prop} {now : Time} (h : EventLeaves D now s t) : t.lines.inputs = s.lines.inputs :=
  h.touches.outside.blocks.inputs

/-- DEFINE_TASK puts no more claims on a line than it has places (R4 check 6). -/
theorem places_define {k : Slot} {common : Common} {kind : KindParams} (hin : s.claimsFit (claimsOf common kind) = true)
    (i : InLine) : ((s.define k common kind).lines.inputs.get i).claims.length ≤ 4 := by
  have hfit : (s.lines.inputs.get i).claims.length + placesOn (claimsOf common kind) i ≤ 4 :=
    of_decide_eq_true (List.all_eq_true.1 hin i (mem_indices i))
  rw [State.define_inputs, (insertClaims_perm ..).length_eq, List.length_append, List.length_map]
  unfold placesOn at hfit
  omega

/-- Serving a request leaves no line with more than its four places of claims. -/
theorem Served.places (hv : Served c s t) (h : ∀ i, (s.lines.inputs.get i).claims.length ≤ 4) (i : InLine) :
    (t.lines.inputs.get i).claims.length ≤ 4 := by
  induction hv with
  | @settled _ s _ _ ih =>
    rw [s.settle_outside.blocks.inputs] at ih
    exact ih h
  | tasksFreed s =>
    rw [State.offerDevice_lines]
    simp [freeAllSlots]
  | inputConfigured s l =>
    by_cases hi : i = l
    · subst hi
      simpa [State.onInput, Input.configure] using h i
    · simpa [State.onInput, hi] using h i
  | defined _ _ _ _ _ _ _ _ hin => exact places_define hin i
  | deleted s k a =>
    rw [State.delete_inputs]
    exact (List.length_filter_le ..).trans (h i)
  | armed s k a =>
    unfold State.driveOpt
    cases a.engine.alertLine? <;> exact h i
  | started s k =>
    rw [(State.endEventsOf_outside _ _).1.blocks.inputs, (startSlots_leaves _ _ s).inputs]
    exact h i
  | groupStarted s slots turns =>
    rw [(State.endEventsOf_outside _ _).1.blocks.inputs, (State.takeTurns_outside _ turns).blocks.inputs,
      (startSlots_leaves _ _ s).inputs]
    exact h i
  | runEnded s k a ending hk =>
    rw [(State.endEventsOf_outside _ _).1.blocks.inputs, (endRun_leaves ending hk).inputs]
    exact h i
  | _ => exact h i

theorem Happens.places (hv : Happens c s t) (h : ∀ i, (s.lines.inputs.get i).claims.length ≤ 4) (i : InLine) :
    (t.lines.inputs.get i).claims.length ≤ 4 := by
  induction hv with
  | @settled _ s _ _ ih =>
    rw [s.settle_outside.blocks.inputs] at ih
    exact ih h
  | request _ _ _ hserved => exact hserved.places h i
  | @arbitrated _ s =>
    have : (arbitrate s.endFrame).lines = s.lines := by
      unfold arbitrate
      repeat' split
      all_goals rfl
    rw [this]
    exact h i
  | reset => simp [resetTo, Input.reset]
  | @sampled s levels =>
    have hclaims : ((s.lines.sampleAll levels).inputs.get i).claims = (s.lines.inputs.get i).claims := by
      simp only [LineUnit.sampleAll, Bank.get_build, Input.sample]
      repeat' split
      all_goals rfl
    rw [hclaims]
    exact h i
  | turned turns =>
    rw [(State.takeTurns_outside _ turns).blocks.inputs]
    exact h i
  | updated k turns =>
    rw [(State.takeTurns_outside _ turns).blocks.inputs, (takeUpdate_leaves k _ _).inputs]
    exact h i
  | clocked k turns =>
    rw [(State.takeTurns_outside _ turns).blocks.inputs, (takeClock_leaves k _).inputs]
    exact h i
  | expired k turns =>
    rw [(State.takeTurns_outside _ turns).blocks.inputs, (takeExpiry_leaves k _).inputs]
    exact h i
  | _ => exact h i

/-- Settles O58: the data of each reply and the record of each report fit, and the claims listed are the four a line carries. -/
theorem everyStepKeepsFramesWithinTheirLength : Obligations.EveryStepKeepsFramesWithinTheirLength := by
  intro s t hs hstep
  refine step_keeps (P := State.FramesFit) (fun _ _ h => ⟨h.claims, h.queued, h.held, h.sending⟩) ?_ hs hstep
  intro c s t hv h
  have hlink := hv.link_fits h.claims ⟨h.queued, h.held, h.sending⟩
  exact ⟨hv.places h.claims, hlink.queued, hlink.held, hlink.sending⟩

end Sys2Proof.Machine
end

section
/-! The soundness of the segment store is kept by every step: the reference counts by defining and deleting, the contents by
the program requests, and neither by anything else (R62 to R64). -/

namespace Sys2Proof.Machine

variable {c : Instr} {s t : State} {k : Slot} {p q : Prog} {common : Common} {kind : KindParams}

/-! ### Numbers in bytes (R194) -/

theorem beNat_append_byte (bytes : List Byte) (b : Byte) : beNat (bytes ++ [b]) = beNat bytes * 256 + b.toNat := by
  simp [beNat]

theorem beNat_lt (bytes : List Byte) : beNat bytes < 256 ^ bytes.length := by
  induction bytes using List.reverseRecOn with
  | nil => decide
  | append_singleton bytes b ih =>
    have hb : b.toNat < 256 := b.isLt
    rw [beNat_append_byte, List.length_append, List.length_singleton, Nat.pow_succ]
    omega

theorem natAt_lt (payload : List Byte) (i width : Nat) : natAt payload i width < 256 ^ width :=
  (beNat_lt _).trans_le (Nat.pow_le_pow_right (by decide) (List.length_take_le ..))

/-! ### Segments as they are read (R63, R198) -/

theorem duration_of_segmentOf? {b : List Byte} {g : Segment} (h : segmentOf? b = some g) :
    1 ≤ g.duration ∧ g.duration ≤ 16777215 := by
  unfold segmentOf? at h
  split at h
  next => cases h
  next =>
    split at h
    next => cases h
    next hd =>
      cases h
      have := natAt_lt b 1 3
      exact ⟨Nat.one_le_iff_ne_zero.2 hd, by dsimp only; omega⟩

theorem durations_of_segmentsOf? {n : Nat} {b : List Byte} {segments : List Segment}
    (h : segmentsOf? n b = some segments) : ∀ g ∈ segments, 1 ≤ g.duration ∧ g.duration ≤ 16777215 := by
  induction n generalizing b segments with
  | zero =>
    cases h
    simp
  | succ n ih =>
    rw [segmentsOf?] at h
    split at h
    next g rest hg hrest =>
      cases h
      intro x hx
      rcases List.mem_cons.1 hx with rfl | hx
      exacts [duration_of_segmentOf? hg, ih hrest x hx]
    next => cases h

/-- What a program request reads: 1 to 28 segments, each of a duration in range (R65). -/
theorem loadOf?_segments {payload : List Byte} {final : Bool} {segments : List Segment}
    (h : loadOf? payload = some (p, final, segments)) :
    1 ≤ segments.length ∧ segments.length ≤ 28 ∧ ∀ g ∈ segments, 1 ≤ g.duration ∧ g.duration ≤ 16777215 := by
  simp only [loadOf?, Option.bind_eq_bind, Option.bind_eq_some_iff, require] at h
  obtain ⟨_, -, _, hr, segments', hs, h⟩ := h
  split at hr
  next hn =>
    obtain ⟨-, -, rfl⟩ := by simpa using h
    have hlen := length_of_segmentsOf? hs
    rw [decide_eq_true_iff] at hn
    exact ⟨by omega, hlen ▸ hn.2, durations_of_segmentsOf? hs⟩
  next => cases hr

/-! ### What the store depends on -/

theorem names_iff : s.names k p = true ↔ ∃ a, s.task? k = some a ∧ a.engine.params.program? = some p := by
  unfold State.names
  cases s.task? k <;> simp

theorem names_of_some {a : Task} (h : s.task? k = some a) :
    s.names k p = decide (a.engine.params.program? = some p) := by
  rw [Bool.eq_iff_iff, names_iff, decide_eq_true_iff]
  simp [h]

theorem names_of_none (h : s.task? k = none) : s.names k p = false := by
  rw [State.names, h]

theorem names_congr (h : (t.task? k).map Task.fixed = (s.task? k).map Task.fixed) : t.names k p = s.names k p := by
  have hfixed : ∀ u : State, u.names k p = ((u.task? k).map Task.fixed).elim false (fun x => x.2.program? == some p) := by
    intro u
    unfold State.names
    cases u.task? k <;> rfl
  rw [hfixed t, hfixed s, h]

/-- The store is sound as before where no program has changed and the slots hold the same tasks. -/
theorem State.StoreSound.congr (h : s.StoreSound) (hprog : t.programs = s.programs)
    (hfixed : ∀ j, (t.task? j).map Task.fixed = (s.task? j).map Task.fixed) : t.StoreSound where
  counted p := by
    rw [hprog, h.counted p]
    congr 2
    funext j
    exact (names_congr (hfixed j)).symm
  inUseSealed := hprog ▸ h.inUseSealed
  pool := hprog ▸ h.pool
  lengths := hprog ▸ h.lengths
  emptyIff := hprog ▸ h.emptyIff
  durations := hprog ▸ h.durations

theorem Touches.store {D : Slot → Prop} {L : OutLine → Prop} (ht : Touches D L s t) (h : s.StoreSound) : t.StoreSound :=
  h.congr ht.outside.blocks.programs ht.fixed

theorem State.StoreSound.setTask {a b : Task} (h : s.StoreSound) (ha : s.task? k = some a) (hb : b.fixed = a.fixed) :
    (s.setTask k b).StoreSound := h.congr rfl (fixed_setTask ha hb)

/-- A program no task names is in use by none. -/
theorem State.StoreSound.unnamed (h : s.StoreSound) (hp : (s.programs.get p).refCount = 0) (j : Slot) :
    s.names j p = false := by
  rw [h.counted p, List.length_eq_zero_iff, List.filter_eq_nil_iff] at hp
  simpa using hp j (mem_indices j)

/-- A program that a task names is in use. -/
theorem State.StoreSound.named (h : s.StoreSound) (hn : s.names k p = true) : (s.programs.get p).refCount ≠ 0 := by
  intro hp
  rw [h.unnamed hp k] at hn
  cases hn

/-- The program of a task holds a segment. -/
theorem State.StoreSound.segments_ne_nil (h : s.StoreSound) (hn : s.names k p = true) : s.segments p ≠ [] := by
  intro hnil
  have hsealed := h.inUseSealed p (h.named hn)
  rw [(h.emptyIff p).2 hnil] at hsealed
  cases hsealed

/-! ### The contents of programs -/

theorem usedCells_modify (b : Bank Program 8) (p : Prog) (f : Program → Program) :
    usedCells (b.modify p f) + (b.get p).segments.length = usedCells b + (f (b.get p)).segments.length := by
  have hlt : p.val < (b.cells.map fun x => x.segments.length).length := by
    rw [List.length_map, b.size_eq]
    exact p.isLt
  have hset : (b.modify p f).cells.map (fun x => x.segments.length) =
      (b.cells.map fun x => x.segments.length).set p.val (f (b.get p)).segments.length := List.map_set
  have hget : (b.get p).segments.length = (b.cells.map fun x => x.segments.length)[p.val] := by
    rw [List.getElem_map]
    rfl
  unfold usedCells
  have hsum := List.sum_take_add_sum_drop (b.cells.map fun x => x.segments.length) p.val
  rw [List.drop_eq_getElem_cons hlt, List.sum_cons] at hsum
  rw [hset, hget, List.sum_set, if_pos hlt]
  omega

/-- A program that is not in use may be given another content that fits. -/
theorem State.StoreSound.onProgram {f : Program → Program} (h : s.StoreSound) (hp : (s.programs.get p).refCount = 0)
    (hcount : (f (s.programs.get p)).refCount = 0)
    (hempty : (f (s.programs.get p)).state = .empty ↔ (f (s.programs.get p)).segments = [])
    (hlen : (f (s.programs.get p)).segments.length ≤ 128)
    (hpool : usedCells s.programs + (f (s.programs.get p)).segments.length ≤ 256 + (s.programs.get p).segments.length)
    (hdur : ∀ g ∈ (f (s.programs.get p)).segments, 1 ≤ g.duration ∧ g.duration ≤ 16777215) :
    (s.onProgram p f).StoreSound := by
  have hall : ∀ {Q : Prog → Program → Prop}, (∀ q, Q q (s.programs.get q)) → Q p (f (s.programs.get p)) →
      ∀ q, Q q ((s.onProgram p f).programs.get q) := by
    intro Q hold hnew q
    by_cases hq : q = p
    · subst hq
      simpa [State.onProgram] using hnew
    · simpa [State.onProgram, hq] using hold q
  exact
    { counted := hall (Q := fun q x => x.refCount = ((indices 16).filter fun k => s.names k q).length) h.counted
        (by rw [hcount, ← hp, h.counted p])
      inUseSealed := hall (Q := fun _ x => x.refCount ≠ 0 → x.state = .sealed) h.inUseSealed fun hn => absurd hcount hn
      pool := by
        have := usedCells_modify s.programs p f
        change usedCells (s.programs.modify p f) ≤ 256
        omega
      lengths := hall (Q := fun _ x => x.segments.length ≤ 128) h.lengths hlen
      emptyIff := hall (Q := fun _ x => x.state = .empty ↔ x.segments = []) h.emptyIff hempty
      durations := hall (Q := fun _ x => ∀ g ∈ x.segments, 1 ≤ g.duration ∧ g.duration ≤ 16777215) h.durations hdur }

theorem progStateOf_ne_empty (final : Bool) : progStateOf final ≠ .empty := by cases final <;> nofun

/-! ### The counts of programs -/

theorem length_filter_of_agree {α : Type} [DecidableEq α] {xs : List α} {x : α} {f g : α → Bool} (hnodup : xs.Nodup)
    (hx : x ∈ xs) (h : ∀ y, y ≠ x → g y = f y) :
    (xs.filter g).length + (if f x then 1 else 0) = (xs.filter f).length + (if g x then 1 else 0) := by
  have hperm := List.perm_cons_erase hx
  have hrest : (xs.erase x).countP g = (xs.erase x).countP f :=
    List.countP_congr fun y hy => by rw [h y ((hnodup.mem_erase_iff).1 hy).1]
  simp only [← List.countP_eq_length_filter, hperm.countP_eq, List.countP_cons, hrest]
  omega

/-- A program keeps its content where its count is changed. -/
theorem State.StoreSound.recounted (h : s.StoreSound)
    (hcontent : ∀ q, (t.programs.get q).state = (s.programs.get q).state ∧
      (t.programs.get q).segments = (s.programs.get q).segments)
    (hcounted : ∀ q, (t.programs.get q).refCount = ((indices 16).filter fun k => t.names k q).length)
    (hsealed : ∀ q, (t.programs.get q).refCount ≠ 0 → (s.programs.get q).refCount ≠ 0 ∨ (s.programs.get q).state = .sealed) :
    t.StoreSound := by
  have hcells : t.programs.cells.map (fun x => x.segments.length) = s.programs.cells.map fun x => x.segments.length := by
    refine List.ext_getElem (by simp [t.programs.size_eq, s.programs.size_eq]) fun i hi _ => ?_
    rw [List.length_map, t.programs.size_eq] at hi
    rw [List.getElem_map, List.getElem_map]
    exact congrArg List.length (hcontent ⟨i, hi⟩).2
  refine
    { counted := hcounted
      inUseSealed := fun q hq => ?_
      pool := by unfold usedCells; rw [hcells]; exact h.pool
      lengths := fun q => by rw [(hcontent q).2]; exact h.lengths q
      emptyIff := fun q => by rw [(hcontent q).1, (hcontent q).2]; exact h.emptyIff q
      durations := fun q => by rw [(hcontent q).2]; exact h.durations q }
  rw [(hcontent q).1]
  exact (hsealed q hq).elim (h.inUseSealed q) id

theorem params_definedTask (s : State) (common : Common) (kind : KindParams) :
    (definedTask s common kind).engine.params = kind := by cases kind <;> rfl

theorem State.StoreSound.define (h : s.StoreSound) (hk : s.task? k = none) (hprog : s.unsealed kind = false) :
    (s.define k common kind).StoreSound := by
  have hold : ∀ q, s.names k q = false := fun q => names_of_none hk
  have hnew : ∀ q, (s.define k common kind).names k q = decide (kind.program? = some q) := fun q => by
    rw [names_of_some ((s.task?_define k common kind).trans (if_pos rfl)), params_definedTask]
  refine h.recounted (fun q => ?_) (fun q => ?_) fun q hq => ?_
  · rw [State.define_programs, State.recount_programs]
    exact ⟨rfl, rfl⟩
  · have hcount := length_filter_of_agree (f := fun j => s.names j q) (g := fun j => (s.define k common kind).names j q)
      (indices_nodup 16) (mem_indices k) fun j hj => by
        rw [State.names, State.names, State.task?_define, if_neg hj]
    rw [hold q, hnew q] at hcount
    rw [State.define_programs, State.recount_programs, h.counted q]
    simp only [decide_eq_true_eq, Bool.false_eq_true, if_false] at hcount ⊢
    split <;> simp_all
  · rw [State.define_programs, State.recount_programs] at hq
    by_cases hq' : kind.program? = some q
    · refine .inr ?_
      simpa [State.unsealed, hq'] using hprog
    · exact .inl (by simpa [hq'] using hq)

theorem State.StoreSound.delete {a : Task} (h : s.StoreSound) (hk : s.task? k = some a) : (s.delete k a).StoreSound := by
  have hold : ∀ q, s.names k q = decide (a.engine.params.program? = some q) := fun q => names_of_some hk
  have hnew : ∀ q, (s.delete k a).names k q = false := fun q =>
    names_of_none ((s.task?_delete k a).trans (if_pos rfl))
  refine h.recounted (fun q => ?_) (fun q => ?_) fun q hq => .inl ?_
  · rw [State.delete_programs, State.recount_programs]
    exact ⟨rfl, rfl⟩
  · have hcount := length_filter_of_agree (f := fun j => s.names j q) (g := fun j => (s.delete k a).names j q)
      (indices_nodup 16) (mem_indices k) fun j hj => by
        rw [State.names, State.names, State.task?_delete, if_neg hj]
    rw [hold q, hnew q] at hcount
    rw [State.delete_programs, State.recount_programs, h.counted q]
    simp only [decide_eq_true_eq, Bool.false_eq_true, if_false] at hcount ⊢
    split
    next hq => simp only [hq, if_true] at hcount; rw [Nat.pred_eq_sub_one]; omega
    next hq => simp only [hq, if_false] at hcount; omega
  · intro hzero
    rw [State.delete_programs, State.recount_programs, hzero] at hq
    simp at hq

/-- No slot holds a task, and no program is in use. -/
theorem State.StoreSound.freed (h : s.StoreSound) (htasks : ∀ j, t.task? j = none)
    (hprog : ∀ q, t.programs.get q = { s.programs.get q with refCount := 0 }) : t.StoreSound := by
  refine h.recounted (fun q => by rw [hprog q]; exact ⟨rfl, rfl⟩) (fun q => ?_) fun q hq => absurd (by rw [hprog q]) hq
  rw [hprog q]
  simp [State.names, htasks]

theorem storeSound_resetTo (pending : List Instr) (cause : ResetCause) (straps : Straps) :
    (resetTo pending cause straps).StoreSound := by
  have hprog : ∀ p, (resetTo pending cause straps).programs.get p = Program.reset := fun p => by simp [resetTo]
  have hnone : ∀ k, (resetTo pending cause straps).task? k = none := fun k => by simp [resetTo, State.task?]
  refine ⟨fun p => ?_, fun p => ?_, Nat.zero_le _, fun p => ?_, fun p => ?_, fun p => ?_⟩
  all_goals rw [hprog]
  · simp [Program.reset, names_of_none (hnone _)]
  all_goals simp [Program.reset]

/-! ### The commands -/

theorem EventLeaves.store {D : Slot → Prop} {now : Time} (h : EventLeaves D now s t) (hs : s.StoreSound) : t.StoreSound :=
  h.touches.store hs

theorem State.StoreSound.settle (h : s.StoreSound) : s.settle.StoreSound :=
  (touches_settle (D := fun _ => True) fun _ _ => trivial).store h

theorem State.StoreSound.takeTurns (h : s.StoreSound) (turns : Turns) : (s.takeTurns turns).StoreSound :=
  (touches_takeTurns (D := fun _ => True) turns fun _ _ => trivial).store h

theorem State.StoreSound.endEventsOf (h : s.StoreSound) (slots : List Slot) : (s.endEventsOf slots).StoreSound :=
  (touches_endEventsOf (D := fun _ => True) slots fun _ _ => trivial).store h

theorem Served.store_sound (hv : Served c s t) (h : s.StoreSound) : t.StoreSound := by
  induction hv with
  | settled _ ih => exact ih h.settle
  | tasksFreed s => exact h.freed (fun j => by simp [freeAllSlots, State.task?]) fun q => by simp [freeAllSlots]
  | loaded s p final segments hf hp hfree =>
    obtain ⟨hone, hmany, hdur⟩ := loadOf?_segments hf
    refine h.onProgram hp hp (iff_of_false (progStateOf_ne_empty final) ?_) (by simp only [Program.load]; omega) ?_ hdur
    · rintro rfl
      cases hone
    · have := h.pool
      simp only [State.freeCells, Config.poolCells] at hfree
      simp only [Program.load]
      omega
  | appended s p final segments hf hstate hlen hfree =>
    obtain ⟨hone, -, hdur⟩ := loadOf?_segments hf
    have hp : (s.programs.get p).refCount = 0 := by
      by_contra hne
      rw [h.inUseSealed p hne] at hstate
      cases hstate
    refine h.onProgram hp hp (iff_of_false (progStateOf_ne_empty final) ?_)
      (by simpa [Program.extend] using hlen) ?_ fun g hg => ?_
    · simp only [Program.extend, List.append_eq_nil_iff, not_and]
      rintro - rfl
      cases hone
    · have := h.pool
      simp only [State.freeCells, Config.poolCells] at hfree
      simp only [Program.extend, List.length_append]
      omega
    · rcases List.mem_append.1 hg with hg | hg
      exacts [h.durations p g hg, hdur g hg]
  | erased s p hp =>
    refine h.onProgram hp hp (iff_of_true rfl rfl) (Nat.zero_le _) ?_ nofun
    have := h.pool
    simp only [Program.erase, List.length_nil]
    omega
  | defined _ _ _ _ _ hk hprog => exact h.define hk hprog
  | deleted s k a hk => exact h.delete hk
  | armed s k a hk =>
    have hset := h.setTask (b := a.armed) hk (by cases he : a.engine <;> simp [Task.armed, Task.fixed, Engine.armed, he, Engine.released, Engine.params])
    refine hset.congr ?_ fun _ => ?_
    all_goals
      unfold State.driveOpt
      cases a.engine.alertLine? <;> rfl
  | disarmed s k a hk =>
    exact (h.setTask (b := a.disarmed) hk (by simp [Task.disarmed, Task.fixed])).congr rfl fun _ => rfl
  | started s k => exact ((startSlots_leaves _ _ s).store h).endEventsOf _
  | groupStarted s slots turns => exact (((startSlots_leaves _ _ s).store h).takeTurns turns).endEventsOf _
  | stopping s k a hk => exact h.setTask hk rfl
  | runEnded s k a ending hk => exact ((endRun_leaves ending hk).store h).endEventsOf _
  | positionSet s k a p r v hk he => exact h.setTask hk (by simp [Task.fixed, he, Engine.params])
  | _ => exact h.congr rfl fun _ => rfl

theorem Task.ticked_fixed (a : Task) : a.ticked.fixed = a.fixed := by
  unfold Task.ticked
  repeat' split
  all_goals rfl

theorem Happens.store_sound (hv : Happens c s t) (h : s.StoreSound) : t.StoreSound := by
  induction hv with
  | nothing => exact h
  | settled _ ih => exact ih h.settle
  | @request _ s e _ f _ r _ _ _ _ hserved =>
    have he : e.StoreSound := hserved.store_sound (h.congr rfl fun _ => rfl)
    exact he.congr rfl fun _ => rfl
  | @arbitrated _ s =>
    have harb : (arbitrate s.endFrame).programs = s.programs ∧ (arbitrate s.endFrame).tasks = s.tasks := by
      unfold arbitrate
      repeat' split
      all_goals exact ⟨rfl, rfl⟩
    exact h.congr harb.1 fun j => by rw [State.task?, harb.2]; rfl
  | reset => exact storeSound_resetTo ..
  | @ticked s =>
    refine h.congr rfl fun j => ?_
    rw [State.task?, Bank.get_map]
    change Option.map Task.fixed (Option.map Task.ticked (s.task? j)) = _
    rw [Option.map_map]
    congr 1
    exact funext Task.ticked_fixed
  | turned turns => exact h.takeTurns turns
  | @updated s v k turns =>
    have hdrop : (s.dropUpdate k).StoreSound := h.congr rfl fun _ => rfl
    exact ((takeUpdate_leaves k v _).store hdrop).takeTurns turns
  | clocked k turns => exact ((takeClock_leaves k _).store h).takeTurns turns
  | expired k turns => exact ((takeExpiry_leaves k _).store h).takeTurns turns
  | _ => exact h.congr rfl fun _ => rfl

/-- Settles O55: a count follows the tasks that name its program, and the content of a program in use is not changed. -/
theorem everyStepKeepsTheSegmentStoreSound : Obligations.EveryStepKeepsTheSegmentStoreSound := fun _ _ hs hstep =>
  step_keeps (P := State.StoreSound) (fun _ _ h => h.congr rfl fun _ => rfl) (fun _ _ _ hv => hv.store_sound) hs hstep

end Sys2Proof.Machine
end

section
/-! The conditioners, the untaken updates and the open events are kept sound by every step: which commands change a conditioner,
and what each command makes of the events of the present instant. -/

namespace Sys2Proof.Machine

variable {c : Instr} {s t : State} {k : Slot} {D : Slot → Prop}

/-! ### Who changes a conditioner -/

/-- Each input is as before but for its claims. -/
def ConditionersKept (s t : State) : Prop :=
  ∀ l, ∃ claims, t.lines.inputs.get l = { s.lines.inputs.get l with claims := claims }

theorem ConditionersKept.of_inputs (h : t.lines.inputs = s.lines.inputs) : ConditionersKept s t := fun l =>
  ⟨(s.lines.inputs.get l).claims, by rw [h]⟩

/-- A request but CONFIG_INPUT keeps every conditioner, and CONFIG_INPUT configures one. -/
theorem Served.conditioners (hv : Served c s t) :
    ConditionersKept s t ∨
      c = .configInput ∧ ∃ l p n, n ≤ 63 ∧
        t.lines.inputs = s.lines.inputs.modify l fun i => i.configure p n := by
  induction hv with
  | @settled _ s _ _ ih =>
    unfold ConditionersKept at ih
    rw [s.settle_outside.blocks.inputs] at ih
    exact ih
  | inputConfigured s l p n hn => exact .inr ⟨rfl, l, p, n, hn, rfl⟩
  | tasksFreed s =>
    refine .inl fun l => ⟨[], ?_⟩
    rw [State.offerDevice_lines]
    simp [freeAllSlots]
  | defined s k common kind => exact .inl fun l => ⟨_, s.define_inputs k common kind l⟩
  | deleted s k a => exact .inl fun l => ⟨_, s.delete_inputs k a l⟩
  | armed s k a =>
    refine .inl (.of_inputs ?_)
    unfold State.driveOpt
    cases a.engine.alertLine? <;> rfl
  | started s k =>
    exact .inl (.of_inputs ((State.endEventsOf_outside _ _).1.blocks.inputs.trans (startSlots_leaves _ _ s).inputs))
  | groupStarted s slots turns =>
    exact .inl (.of_inputs ((State.endEventsOf_outside _ _).1.blocks.inputs.trans
      ((State.takeTurns_outside _ turns).blocks.inputs.trans (startSlots_leaves _ _ s).inputs)))
  | runEnded s k a ending hk =>
    exact .inl (.of_inputs ((State.endEventsOf_outside _ _).1.blocks.inputs.trans (endRun_leaves ending hk).inputs))
  | _ => exact .inl (.of_inputs rfl)

theorem arbitrate_keeps (s : State) :
    ∃ reports link, arbitrate s = { s with reports := reports, link := link } ∧ reports.session = s.reports.session ∧
      link.opened = s.link.opened ∧ link.lastReset = s.link.lastReset ∧ link.rate = s.link.rate := by
  unfold arbitrate
  repeat' split
  all_goals exact ⟨_, _, rfl, rfl, rfl, rfl, rfl⟩

theorem endFrame_arbitrate_keeps (s : State) :
    ∃ reports link, arbitrate s.endFrame = { s with reports := reports, link := link } ∧
      reports.session = s.reports.session ∧ link.opened = s.link.opened ∧ link.lastReset = s.link.lastReset ∧
      link.rate = s.link.rate := arbitrate_keeps s.endFrame

/-- Each conditioner is kept, or configured by CONFIG_INPUT, or takes a sample at a sample instant, or is reset. -/
theorem Happens.conditioners (hv : Happens c s t) :
    ConditionersKept s t ∨
      (c = .configInput ∧ ∃ l p n, n ≤ 63 ∧ t.lines.inputs = s.lines.inputs.modify l fun i => i.configure p n) ∨
      (∃ levels, c = .sampleInstant levels ∧ ∀ l, t.lines.inputs.get l = (s.lines.inputs.get l).sample (levels.get l) ∨
        t.lines.inputs.get l = (s.lines.inputs.get l).firstSample (levels.get l)) ∨
      ∃ straps, (c = .fullReset straps ∨ c = .hardResetEnd straps) ∧ ∀ l, t.lines.inputs.get l = Input.reset := by
  induction hv with
  | @settled _ s _ _ ih =>
    unfold ConditionersKept at ih
    rw [s.settle_outside.blocks.inputs] at ih
    exact ih
  | request _ _ _ hserved => exact hserved.conditioners.imp id .inl
  | @arbitrated _ s =>
    obtain ⟨reports, link, h, -⟩ := endFrame_arbitrate_keeps s
    exact .inl (.of_inputs (by rw [h]))
  | reset s cause straps hc => exact .inr (.inr (.inr ⟨straps, hc, fun l => by simp [resetTo]⟩))
  | @sampled s levels =>
    refine .inr (.inr (.inl ⟨levels, rfl, fun l => ?_⟩))
    simp only [LineUnit.sampleAll, Bank.get_build]
    split
    exacts [.inl rfl, .inr rfl]
  | turned turns => exact .inl (.of_inputs (State.takeTurns_outside _ turns).blocks.inputs)
  | updated k turns =>
    exact .inl (.of_inputs ((State.takeTurns_outside _ turns).blocks.inputs.trans (takeUpdate_leaves k _ _).inputs))
  | clocked k turns =>
    exact .inl (.of_inputs ((State.takeTurns_outside _ turns).blocks.inputs.trans (takeClock_leaves k _).inputs))
  | expired k turns =>
    exact .inl (.of_inputs ((State.takeTurns_outside _ turns).blocks.inputs.trans (takeExpiry_leaves k _).inputs))
  | _ => exact .inl (.of_inputs rfl)

/-! ### The candidates -/

/-- A conditioner as R31 and R33 keep it. -/
def Input.Sound (i : Input) : Prop := i.filter ≤ 63 ∧ ∀ n, i.candidate = some n → 1 ≤ n ∧ n ≤ i.filter

/-- A candidate counts up to the filter, and the sample after that is the new level. -/
theorem Input.Sound.sample {i : Input} (h : i.Sound) (raw : Level) : (i.sample raw).Sound := by
  unfold Input.sample
  dsimp only
  split
  · exact ⟨h.1, nofun⟩
  · split
    · exact ⟨h.1, nofun⟩
    next hcount =>
      refine ⟨h.1, fun n hn => ?_⟩
      cases hn
      dsimp only
      omega

theorem Happens.conditioners_sound (hv : Happens c s t) (h : s.ConditionersSound) : t.ConditionersSound := by
  intro l
  have hl : (s.lines.inputs.get l).Sound := h l
  rcases hv.conditioners with hkept | ⟨-, m, p, n, hn, ht⟩ | ⟨levels, -, ht⟩ | ⟨straps, -, ht⟩
  · obtain ⟨claims, ht⟩ := hkept l
    rw [ht]
    exact hl
  · rw [ht]
    by_cases hm : l = m
    · subst hm
      rw [Bank.get_modify_self]
      exact ⟨hn, nofun⟩
    · rw [Bank.get_modify_ne _ _ hm]
      exact hl
  · rcases ht l with ht | ht <;> rw [ht]
    exacts [hl.sample _, ⟨hl.1, nofun⟩]
  · rw [ht l]
    exact ⟨Nat.zero_le _, nofun⟩

/-! ### The events of the present instant -/

theorem State.EventsSound.congr (h : s.EventsSound) (hu : t.tasks.updates = s.tasks.updates) (he : t.events = s.events)
    (ht : t.timebase = s.timebase) (hr : t.inReset = s.inReset) : t.EventsSound where
  views := by rw [hu, ht]; exact h.views
  ofThisInstant := by rw [he, ht]; exact h.ofThisInstant
  waiting := by rw [he]; exact h.waiting
  cut := by rw [hu, he, hr]; exact h.cut

/-- Nothing is untaken and nothing open. -/
theorem eventsSound_of_none (hu : ∀ j, t.tasks.updates.get j = none) (he : t.events = []) : t.EventsSound where
  views j v hv := by rw [hu j] at hv; cases hv
  ofThisInstant e h := by rw [he] at h; cases h
  waiting e h := by rw [he] at h; cases h
  cut _ := ⟨he, hu⟩

/-- Where no more events are open than before, and none in a hard reset, what is open is of the present instant. -/
theorem State.EventsSound.outside (h : s.EventsSound) (hout : OutsideTurns s t)
    (he : ∀ e ∈ t.events, (e.epoch = s.timebase.epoch ∧ e.time = s.timebase.time) ∧ e.offers ≠ [])
    (hr : s.inReset ≠ none → t.events = []) : t.EventsSound where
  views := by rw [hout.updates, hout.blocks.timebase]; exact h.views
  ofThisInstant e hmem := by rw [hout.blocks.timebase]; exact (he e hmem).1
  waiting e hmem := (he e hmem).2
  cut hreset := by
    rw [hout.blocks.inReset] at hreset
    rw [hout.updates]
    exact ⟨hr hreset, (h.cut hreset).2⟩

theorem State.EventsSound.open (h : s.EventsSound) :
    ∀ e ∈ s.events, (e.epoch = s.timebase.epoch ∧ e.time = s.timebase.time) ∧ e.offers ≠ [] := fun e he =>
  ⟨h.ofThisInstant e he, h.waiting e he⟩

theorem State.EventsSound.settle (h : s.EventsSound) : s.settle.EventsSound :=
  h.outside s.settle_outside (by rw [s.settle_events]; nofun) fun _ => s.settle_events

theorem State.EventsSound.endEventsOf (h : s.EventsSound) (slots : List Slot) : (s.endEventsOf slots).EventsSound := by
  obtain ⟨hout, he⟩ := s.endEventsOf_outside slots
  refine h.outside hout ?_ fun hr => ?_ <;> rw [he]
  · exact fun e hmem => h.open e (List.mem_filter.1 hmem).1
  · rw [(h.cut hr).1]
    rfl

/-- One more event, of the present instant and with an offer. -/
theorem EventLeaves.events_sound (hl : EventLeaves D s.timebase.time s t) (h : s.EventsSound) (hr : s.inReset = none) :
    t.EventsSound := by
  refine h.outside hl.touches.outside ?_ fun hreset => absurd hr hreset
  rcases hl.events with he | ⟨e, he, hepoch, htime, -, hoffers, -⟩ <;> rw [he]
  · exact h.open
  · intro x hx
    rcases List.mem_append.1 hx with hx | hx
    · exact h.open x hx
    · rw [List.mem_singleton.1 hx]
      exact ⟨⟨hepoch, htime⟩, hoffers⟩

/-- A turn leaves the event it takes from with the offers it still has, or with the TASK_FAULTs of its end. -/
theorem State.EventsSound.takeTurn (h : s.EventsSound) (hr : s.inReset = none) (j : Slot) : (s.takeTurn j).EventsSound := by
  refine h.outside (s.takeTurn_outside j) ?_ fun hreset => absurd hr hreset
  unfold State.takeTurn
  split
  next => exact h.open
  next before e after hspan =>
    obtain ⟨hevents, -, -⟩ := span_eq_append hspan
    have hopen : ∀ x ∈ before ++ e :: after,
        (x.epoch = s.timebase.epoch ∧ x.time = s.timebase.time) ∧ x.offers ≠ [] := hevents ▸ h.open
    split
    next => exact h.open
    next o e' hnext =>
      obtain ⟨-, -, -, hepoch, htime, -⟩ := next?_offers hnext
      obtain ⟨⟨hep, hti⟩, -⟩ := hopen e (by simp)
      have htaken : (takeOffer (s, e') o).2.epoch = s.timebase.epoch ∧ (takeOffer (s, e') o).2.time = s.timebase.time := by
        rw [takeOffer_epoch, takeOffer_time]
        exact ⟨hepoch.trans hep, htime.trans hti⟩
      dsimp only
      split
      next =>
        intro x hx
        simp only [List.mem_append] at hx
        rcases hx with (hx | hx) | hx
        · exact hopen x (by simp [hx])
        · unfold OpenEvent.ended at hx
          split at hx
          · cases hx
          next hfaults =>
            rw [List.mem_singleton.1 hx]
            exact ⟨htaken, by simpa [OpenEvent.offers] using hfaults⟩
        · exact hopen x (by simp [hx])
      next hleft =>
        intro x hx
        simp only [List.mem_append, List.mem_cons] at hx
        rcases hx with hx | rfl | hx
        · exact hopen x (by simp [hx])
        · exact ⟨htaken, by simpa using hleft⟩
        · exact hopen x (by simp [hx])

theorem State.EventsSound.takeTurns (h : s.EventsSound) (hr : s.inReset = none) (turns : Turns) :
    (s.takeTurns turns).EventsSound := by
  have hfold : ∀ (order : List Slot) (s : State), s.EventsSound → s.inReset = none →
      (order.foldl State.takeTurn s).EventsSound := by
    intro order
    induction order with
    | nil => exact fun _ h _ => h
    | cons j rest ih =>
      exact fun s h hr => ih _ (h.takeTurn hr j) ((s.takeTurn_outside j).blocks.inReset.trans hr)
  unfold State.takeTurns
  split
  exacts [hfold _ _ h hr, (hfold _ _ h hr).settle]

/-! ### The commands -/

theorem Served.events_sound (hv : Served c s t) (hr : s.inReset = none) (h : s.EventsSound) : t.EventsSound := by
  induction hv with
  | @settled _ s _ _ ih => exact ih (s.settle_outside.blocks.inReset.trans hr) h.settle
  | tasksFreed s he => exact eventsSound_of_none (fun j => by simp [freeAllSlots]) he
  | timeRestarted s rate he => exact eventsSound_of_none (fun j => by simp [State.restartTime]) he
  | defined s k common kind => exact h.congr (by simp) (by simp) (by simp) (by simp)
  | deleted s k a =>
    refine ⟨fun j v hv => ?_, ?_, ?_, fun hreset => absurd hr (by simpa using hreset)⟩
    · rw [State.delete_updates, Bank.get_set] at hv
      rw [State.delete_timebase]
      split at hv
      · cases hv
      · exact h.views j v hv
    · rw [State.delete_events, State.delete_timebase]
      exact h.ofThisInstant
    · rw [State.delete_events]
      exact h.waiting
  | armed s k a =>
    unfold State.driveOpt
    cases a.engine.alertLine? <;> exact h.congr rfl rfl rfl rfl
  | started s k => exact ((startSlots_leaves _ _ s).events_sound h hr).endEventsOf _
  | groupStarted s slots turns =>
    have hl := startSlots_leaves slots .group s
    exact ((hl.events_sound h hr).takeTurns (hl.touches.outside.blocks.inReset.trans hr) turns).endEventsOf _
  | runEnded s k a ending hk => exact ((endRun_leaves ending hk).events_sound h hr).endEventsOf _
  | _ => exact h.congr rfl rfl rfl rfl

theorem EventLeaves.turns_sound (hl : EventLeaves D s.timebase.time s t) (h : s.EventsSound) (hr : s.inReset = none)
    (turns : Turns) : (t.takeTurns turns).EventsSound :=
  (hl.events_sound h hr).takeTurns (hl.touches.outside.blocks.inReset.trans hr) turns

theorem viewFor_time {u v : LineUnit} {now : Time} {view : View} (h : viewFor u v now k = some view) : view.time = now := by
  unfold viewFor at h
  dsimp only at h
  split at h
  · cases h
  · cases h
    rfl

theorem Happens.events_sound (hv : Happens c s t) (h : s.EventsSound) : t.EventsSound := by
  induction hv with
  | settled _ ih => exact ih h.settle
  | request ht _ _ hserved => exact (hserved.events_sound ht.outOfReset (h.congr rfl rfl rfl rfl)).congr rfl rfl rfl rfl
  | @arbitrated _ s =>
    obtain ⟨reports, link, ht, -⟩ := endFrame_arbitrate_keeps s
    rw [ht]
    exact h.congr rfl rfl rfl rfl
  | reset => exact eventsSound_of_none (fun j => by simp [resetTo]) rfl
  | cut => exact eventsSound_of_none (fun j => by simp) rfl
  | @sampled s levels hr he =>
    refine ⟨fun j v hv => ?_, he ▸ nofun, he ▸ nofun, fun hreset => absurd hr hreset⟩
    rw [Bank.get_build] at hv
    exact viewFor_time hv
  | ticked _ he hu => exact eventsSound_of_none hu he
  | turned turns hr => exact h.takeTurns hr turns
  | @updated s v k turns hr hv =>
    have hdrop : (s.dropUpdate k).EventsSound := by
      refine ⟨fun j w hw => ?_, h.ofThisInstant, h.waiting, fun hreset => absurd hr hreset⟩
      rw [State.dropUpdate_updates, Bank.get_set] at hw
      split at hw
      · cases hw
      · exact h.views j w hw
    have hl := takeUpdate_leaves k v (s.dropUpdate k)
    rw [show v.time = (s.dropUpdate k).timebase.time from h.views k v hv] at hl
    exact hl.turns_sound hdrop hr turns
  | clocked k turns hr => exact (takeClock_leaves k _).turns_sound h hr turns
  | expired k turns hr => exact (takeExpiry_leaves k _).turns_sound h hr turns
  | _ => exact h.congr rfl rfl rfl rfl

/-- Settles O59: a sample alone counts a candidate, and an event opens at the present instant, before time goes on. -/
theorem everyStepKeepsConditionersAndEventsSound : Obligations.EveryStepKeepsConditionersAndEventsSound := by
  refine fun s t hstep => ⟨fun hs => ?_, fun hs => ?_⟩
  · exact step_keeps (P := State.ConditionersSound) (fun _ _ h => h) (fun _ _ _ hv => hv.conditioners_sound) hs hstep
  · exact step_keeps (P := State.EventsSound) (fun _ _ h => h.congr rfl rfl rfl rfl) (fun _ _ _ hv => hv.events_sound)
      hs hstep

end Sys2Proof.Machine
end

section
/-! Each setting is changed by the commands named and by no other: what each command keeps of the settings, and what an engine's
event and the turns after it touch. -/

namespace Sys2Proof.Machine

variable {c : Instr} {s t u : State} {k : Slot} {D : Slot → Prop} {L : OutLine → Prop}

/-! ### The settings -/

/-- What the command `c` keeps from `s` to `t`, unless it is one of those that change it. -/
structure SettingsKept (c : Instr) (s t : State) : Prop where
  pending : t.pending = s.pending
  inReset : (∀ x, c ≠ .hardReset x) → t.inReset = s.inReset
  rate : c ≠ .setTick → t.timebase.rate = s.timebase.rate ∧ t.timebase.epoch = s.timebase.epoch
  time : c ≠ .setTick → c ≠ .tickBoundary → t.timebase.time = s.timebase.time
  opened : c ≠ .openSessionClean → c ≠ .openSessionResume → t.link.opened = s.link.opened
  session : c ≠ .openSessionClean → c ≠ .openSessionResume → c ≠ .closeSession → t.reports.session = s.reports.session
  content : c ≠ .loadProgram → c ≠ .appendProgram → c ≠ .eraseProgram →
    ∀ p, (t.programs.get p).segments = (s.programs.get p).segments ∧ (t.programs.get p).state = (s.programs.get p).state
  link : t.link.lastReset = s.link.lastReset ∧ t.link.rate = s.link.rate
  idle : c ≠ .configOutput → ∀ l, (t.lines.outputs.get l).idle = (s.lines.outputs.get l).idle
  claims : c ≠ .defineTask → c ≠ .deleteTask → c ≠ .resetDeviceTasks →
    ∀ l, (t.lines.inputs.get l).claims = (s.lines.inputs.get l).claims
  free : c ≠ .defineTask → c ≠ .deleteTask → c ≠ .resetDeviceTasks → ∀ k, t.task? k = none ↔ s.task? k = none
  owner : c ≠ .defineTask → c ≠ .deleteTask → c ≠ .resetDeviceTasks → c ≠ .setOutputActive → c ≠ .setOutputIdle →
    c ≠ .setOutputRelease → ∀ l, (t.lines.outputs.get l).owner = (s.lines.outputs.get l).owner

/-- What touches slots and output lines alone keeps every setting. -/
theorem Touches.settings (h : Touches D L s t) (hs : t.reports.session = s.reports.session) : SettingsKept c s t where
  pending := h.outside.blocks.pending
  inReset _ := h.outside.blocks.inReset
  rate _ := by rw [h.outside.blocks.timebase]; exact ⟨rfl, rfl⟩
  time _ _ := by rw [h.outside.blocks.timebase]
  opened _ _ := by rw [h.outside.link]
  session _ _ _ := hs
  content _ _ _ p := by rw [h.outside.blocks.programs]; exact ⟨rfl, rfl⟩
  link := by rw [h.outside.link]; exact ⟨rfl, rfl⟩
  idle _ := h.idle
  claims _ _ _ l := by rw [h.outside.blocks.inputs]
  free _ _ _ _ := h.none_iff
  owner _ _ _ _ _ _ := h.owner

theorem SettingsKept.refl (s : State) : SettingsKept c s s := (Touches.refl (D := fun _ => True) (L := fun _ => True) s).settings rfl

theorem SettingsKept.trans (h : SettingsKept c s t) (g : SettingsKept c t u) : SettingsKept c s u where
  pending := g.pending.trans h.pending
  inReset hc := (g.inReset hc).trans (h.inReset hc)
  rate hc := ⟨(g.rate hc).1.trans (h.rate hc).1, (g.rate hc).2.trans (h.rate hc).2⟩
  time h1 h2 := (g.time h1 h2).trans (h.time h1 h2)
  opened h1 h2 := (g.opened h1 h2).trans (h.opened h1 h2)
  session h1 h2 h3 := (g.session h1 h2 h3).trans (h.session h1 h2 h3)
  content h1 h2 h3 p := ⟨(g.content h1 h2 h3 p).1.trans (h.content h1 h2 h3 p).1,
    (g.content h1 h2 h3 p).2.trans (h.content h1 h2 h3 p).2⟩
  link := ⟨g.link.1.trans h.link.1, g.link.2.trans h.link.2⟩
  idle hc l := (g.idle hc l).trans (h.idle hc l)
  claims h1 h2 h3 l := (g.claims h1 h2 h3 l).trans (h.claims h1 h2 h3 l)
  free h1 h2 h3 k := (g.free h1 h2 h3 k).trans (h.free h1 h2 h3 k)
  owner h1 h2 h3 h4 h5 h6 l := (g.owner h1 h2 h3 h4 h5 h6 l).trans (h.owner h1 h2 h3 h4 h5 h6 l)

/-! ### The queue's turns and the engines keep them all -/

/-- The queue's turns keep the session. -/
theorem session_keptByTurns (x : Option Nat) : KeptByTurns fun s => s.reports.session = x where
  offered s source epoch time r h := (s.reports.offer_session source epoch time r).trans h
  faulted _ _ _ _ _ h := h
  events _ _ h := h

theorem settings_settle (s : State) : SettingsKept c s s.settle :=
  (touches_settle (D := fun _ => True) fun _ _ => trivial).settings ((session_keptByTurns _).settle rfl)

theorem settings_takeTurns (s : State) (turns : Turns) : SettingsKept c s (s.takeTurns turns) :=
  (touches_takeTurns (D := fun _ => True) turns fun _ _ => trivial).settings ((session_keptByTurns _).takeTurns turns rfl)

theorem settings_endEventsOf (s : State) (slots : List Slot) : SettingsKept c s (s.endEventsOf slots) :=
  (touches_endEventsOf (D := fun _ => True) slots fun _ _ => trivial).settings
    ((session_keptByTurns _).endEventsOf slots rfl)

theorem EventLeaves.settings {now : Time} (h : EventLeaves D now s t) : SettingsKept c s t :=
  h.touches.settings (congrArg ReportQueue.session h.reports)

/-- A slot's record changed to one of the same task. -/
theorem settings_setTask {a b : Task} (ha : s.task? k = some a) (hb : b.fixed = a.fixed) :
    SettingsKept c s (s.setTask k b) :=
  (Touches.setTask (D := fun _ => True) (L := fun _ => True) ha hb trivial).settings rfl

theorem settings_onOutput {l : OutLine} {f : Output → Output} (hidle : ∀ o, (f o).idle = o.idle)
    (howner : ∀ o, (f o).owner = o.owner) : SettingsKept c s (s.onOutput l f) :=
  (Touches.onOutput (D := fun _ => True) (L := fun _ => True) trivial hidle howner).settings rfl

theorem settings_driveOpt (s : State) (l : Option OutLine) (active : Bool) : SettingsKept c s (s.driveOpt l active) := by
  cases l with
  | none => exact .refl s
  | some l => exact settings_onOutput (fun _ => rfl) fun _ => rfl

theorem settings_restOutputs (s : State) (k : Slot) : SettingsKept c s (s.restOutputs k) :=
  (Touches.restOutputs (D := fun _ => True) (L := fun _ => True) fun _ _ _ => trivial).settings rfl

@[simp] theorem Task.armed_fixed (a : Task) : a.armed.fixed = a.fixed := by
  cases he : a.engine <;> simp [Task.armed, Task.fixed, he, Engine.armed, Engine.released, Engine.params]

@[simp] theorem Task.disarmed_fixed (a : Task) : a.disarmed.fixed = a.fixed := by simp [Task.disarmed, Task.fixed]

/-! ### The commands -/

/-- SET_OUTPUT changes a line's owner and keeps its idle level. -/
theorem settings_setOutput {l : OutLine} {f : Output → Output} (hidle : ∀ o, (f o).idle = o.idle)
    (hc : c = .setOutputActive ∨ c = .setOutputIdle ∨ c = .setOutputRelease) : SettingsKept c s (s.onOutput l f) :=
  { SettingsKept.refl (c := c) s with
    idle := fun _ m => by
      by_cases h : m = l
      · subst h; simp [hidle]
      · simp [h]
    owner := fun _ _ _ h1 h2 h3 => by rcases hc with h | h | h <;> contradiction }

theorem settings_onProgram {p : Prog} {f : Program → Program}
    (hc : c = .loadProgram ∨ c = .appendProgram ∨ c = .eraseProgram) : SettingsKept c s (s.onProgram p f) :=
  { SettingsKept.refl (c := c) s with
    content := fun h1 h2 h3 => by rcases hc with h | h | h <;> contradiction }

theorem settings_define (s : State) (k : Slot) (common : Common) (kind : KindParams) :
    SettingsKept .defineTask s (s.define k common kind) where
  pending := by simp
  inReset _ := by simp
  rate _ := by simp
  time _ _ := by simp
  opened _ _ := by simp
  session _ _ _ := by simp
  content _ _ _ p := by rw [State.define_programs, State.recount_programs]; exact ⟨rfl, rfl⟩
  link := by simp
  idle _ l := (s.define_level k common kind l).2.1
  claims h := absurd rfl h
  free h := absurd rfl h
  owner h := absurd rfl h

theorem settings_delete (s : State) (k : Slot) (a : Task) : SettingsKept .deleteTask s (s.delete k a) where
  pending := by simp
  inReset _ := by simp
  rate _ := by simp
  time _ _ := by simp
  opened _ _ := by simp
  session _ _ _ := by simp
  content _ _ _ p := by rw [State.delete_programs, State.recount_programs]; exact ⟨rfl, rfl⟩
  link := by simp
  idle _ l := by
    rw [State.delete_outputs]
    split <;> rfl
  claims _ h := absurd rfl h
  free _ h := absurd rfl h
  owner _ h := absurd rfl h

theorem settings_tasksFreed (s : State) (r : Report) :
    SettingsKept .resetDeviceTasks s ((freeAllSlots s).offerDevice r) where
  pending := rfl
  inReset _ := rfl
  rate _ := ⟨rfl, rfl⟩
  time _ _ := rfl
  opened _ _ := rfl
  session _ _ _ := ReportQueue.offer_session ..
  content _ _ _ p := by simp [freeAllSlots]
  link := ⟨rfl, rfl⟩
  idle _ l := by
    simp only [State.offerDevice_lines, freeAllSlots, Bank.get_map]
    split <;> rfl
  claims _ _ h := absurd rfl h
  free _ _ h := absurd rfl h
  owner _ _ h := absurd rfl h

theorem Served.settings (hv : Served c s t) : SettingsKept c s t := by
  induction hv with
  | same => exact .refl _
  | @settled _ s _ _ ih => exact (settings_settle s).trans ih
  | tasksFreed s => exact settings_tasksFreed s _
  | openedClean s => exact { SettingsKept.refl s with opened := (absurd rfl ·), session := (absurd rfl ·) }
  | openedResume s =>
    exact { SettingsKept.refl s with opened := fun _ h => absurd rfl h, session := fun _ h => absurd rfl h }
  | closed s => exact { SettingsKept.refl s with session := fun _ _ h => absurd rfl h }
  | acknowledged s n =>
    refine { SettingsKept.refl s with session := fun _ _ _ => ?_ }
    unfold ReportQueue.acknowledge ReportQueue.flushLost
    split <;> rfl
  | timeRestarted s rate =>
    exact
      { SettingsKept.refl s with
        rate := (absurd rfl ·)
        time := (absurd rfl ·)
        idle := fun _ l => by
          simp only [State.restartTime, Bank.get_map, Output.cutMark]
          split <;> rfl
        owner := fun _ _ _ _ _ _ l => by
          simp only [State.restartTime, Bank.get_map, Output.cutMark]
          split <;> rfl }
  | inputConfigured s l p n =>
    refine { SettingsKept.refl s with claims := fun _ _ _ m => ?_ }
    by_cases hm : m = l
    · subst hm
      simp [State.onInput, Input.configure]
    · simp [State.onInput, hm]
  | outputConfigured s l idle h =>
    refine { SettingsKept.refl s with idle := (absurd rfl ·), owner := fun _ _ _ _ _ _ m => ?_ }
    by_cases hm : m = l
    · subst hm
      simp [Output.configure]
    · simp [hm]
  | outputActive s l => exact settings_setOutput (fun _ => rfl) (.inl rfl)
  | outputIdle s l => exact settings_setOutput (fun _ => rfl) (.inr (.inl rfl))
  | outputReleased s l => exact settings_setOutput (fun _ => rfl) (.inr (.inr rfl))
  | loaded s p => exact settings_onProgram (.inl rfl)
  | appended s p => exact settings_onProgram (.inr (.inl rfl))
  | erased s p => exact settings_onProgram (.inr (.inr rfl))
  | defined s k common kind => exact settings_define s k common kind
  | deleted s k a => exact settings_delete s k a
  | armed s k a hk => exact (settings_setTask hk a.armed_fixed).trans (settings_driveOpt _ _ _)
  | disarmed s k a hk => exact (settings_setTask hk a.disarmed_fixed).trans (settings_restOutputs _ _)
  | started s k => exact (startSlots_leaves _ _ s).settings.trans (settings_endEventsOf _ _)
  | groupStarted s slots turns =>
    exact ((startSlots_leaves _ _ s).settings.trans (settings_takeTurns _ turns)).trans (settings_endEventsOf _ _)
  | stopping s k a hk => exact settings_setTask hk rfl
  | runEnded s k a ending hk => exact (endRun_leaves ending hk).settings.trans (settings_endEventsOf _ _)
  | positionSet s k a p r v hk he => exact settings_setTask hk (by simp [Task.fixed, he, Engine.params])
  | _ s => exact { SettingsKept.refl s with }

theorem placeHeld_keeps (l : Link) :
    l.placeHeld.opened = l.opened ∧ l.placeHeld.lastReset = l.lastReset ∧ l.placeHeld.rate = l.rate := by
  unfold Link.placeHeld
  repeat' split
  all_goals exact ⟨rfl, rfl, rfl⟩

theorem take_keeps (l : Link) (b : Byte) :
    (l.take b).opened = l.opened ∧ (l.take b).lastReset = l.lastReset ∧ (l.take b).rate = l.rate := by
  unfold Link.take Link.takeLen Link.takeBody Link.judge Link.admitFrame Link.offerOrDrop
  dsimp only
  repeat' split
  all_goals exact ⟨rfl, rfl, rfl⟩

theorem abandon_keeps (l : Link) :
    l.abandon.opened = l.opened ∧ l.abandon.lastReset = l.lastReset ∧ l.abandon.rate = l.rate := by
  unfold Link.abandon
  split <;> exact ⟨rfl, rfl, rfl⟩

theorem stop_keeps (l : Link) (f : OutFrame) :
    (l.stop f).opened = l.opened ∧ (l.stop f).lastReset = l.lastReset ∧ (l.stop f).rate = l.rate := by
  unfold Link.stop
  split <;> exact ⟨rfl, rfl, rfl⟩

/-- A change of the link alone keeps every setting but those the link holds. -/
theorem settings_link {link : Link}
    (h : link.opened = s.link.opened ∧ link.lastReset = s.link.lastReset ∧ link.rate = s.link.rate) :
    SettingsKept c s { s with link := link } :=
  { SettingsKept.refl s with
    opened := fun _ _ => h.1
    link := h.2 }

theorem settings_popRequest (s : State) : SettingsKept c s s.popRequest := settings_link ⟨rfl, rfl, rfl⟩

theorem settings_dropUpdate (s : State) (k : Slot) : SettingsKept c s (s.dropUpdate k) := { SettingsKept.refl s with }

theorem settings_pulseEnded (s : State) (l : OutLine) : SettingsKept c s (s.onOutput l Output.rest) :=
  settings_onOutput (fun _ => rfl) fun _ => rfl

theorem Happens.settings (hv : Happens c s t) (hfull : ∀ x, c ≠ .fullReset x) (hend : ∀ x, c ≠ .hardResetEnd x) :
    SettingsKept c s t := by
  induction hv with
  | nothing => exact .refl _
  | @settled _ s _ _ ih => exact (settings_settle s).trans (ih hfull hend)
  | @request _ s e _ f _ r _ _ _ _ hserved =>
    have hserved : SettingsKept _ s e := (settings_popRequest s).trans hserved.settings
    obtain ⟨-, -, -, h4, h5, h6⟩ := offerResponse_frame e.link (f.answer r false)
    exact hserved.trans (settings_link ⟨h4, h5, h6⟩)
  | stopped => exact settings_link (stop_keeps _ _)
  | received s b => exact settings_link (take_keeps _ b)
  | abandoned s => exact settings_link (abandon_keeps _)
  | placed s => exact settings_link (placeHeld_keeps _)
  | @arbitrated _ s =>
    obtain ⟨reports, link, ht, hs, h1, h2, h3⟩ := endFrame_arbitrate_keeps s
    rw [ht]
    exact { SettingsKept.refl s with opened := fun _ _ => h1, session := fun _ _ _ => hs, link := ⟨h2, h3⟩ }
  | reset s cause straps hc => exact hc.elim (absurd · (hfull straps)) (absurd · (hend straps))
  | cut s cause =>
    exact
      { SettingsKept.refl s with
        inReset := fun h => absurd rfl (h cause)
        idle := fun _ l => by simp [Output.lowInReset]
        owner := fun _ _ _ _ _ _ l => by simp [Output.lowInReset] }
  | @sampled s levels =>
    refine { SettingsKept.refl s with claims := fun _ _ _ l => ?_ }
    simp only [LineUnit.sampleAll, Bank.get_build, Input.sample]
    repeat' split
    all_goals rfl
  | @ticked s =>
    refine { SettingsKept.refl s with time := fun _ h => absurd rfl h, free := fun _ _ _ k => ?_ }
    rw [State.task?, Bank.get_map, Option.map_eq_none_iff]
    rfl
  | pulseEnded l => exact settings_pulseEnded _ l
  | turned turns => exact settings_takeTurns _ turns
  | @updated s v k turns =>
    exact (settings_dropUpdate s k).trans ((takeUpdate_leaves k v _).settings.trans (settings_takeTurns _ turns))
  | clocked k turns => exact (takeClock_leaves k _).settings.trans (settings_takeTurns _ turns)
  | expired k turns => exact (takeExpiry_leaves k _).settings.trans (settings_takeTurns _ turns)

/-- Settles O60: no command but those named, and no turn of the queue, changes a setting. -/
theorem onlyTheNamedCommandsChangeWhatTheyOwn : Obligations.OnlyTheNamedCommandsChangeWhatTheyOwn := by
  intro s t c hexec hfull hend
  have hv := exec_happens hexec
  have hkept := hv.settings hfull hend
  have hcond := hv.conditioners
  refine ⟨hkept.pending, hkept.inReset, hkept.rate, hkept.time, fun h1 h2 => ⟨hkept.opened h1 h2, hkept.session h1 h2⟩,
    hkept.content, hkept.link.1, hkept.link.2, fun hc l => ?_, fun hc hs l => ?_, hkept.idle, fun h1 h2 h3 =>
      ⟨hkept.claims h1 h2 h3, hkept.free h1 h2 h3, hkept.owner h1 h2 h3⟩⟩
  · rcases hcond with h | ⟨h, -⟩ | ⟨levels, -, h⟩ | ⟨straps, h, -⟩
    · obtain ⟨claims, h⟩ := h l
      rw [h]
      exact ⟨rfl, rfl⟩
    · exact absurd h hc
    · rcases h l with h | h <;> rw [h]
      · unfold Input.sample
        dsimp only
        repeat' split
        all_goals exact ⟨rfl, rfl⟩
      · exact ⟨rfl, rfl⟩
    · exact h.elim (absurd · (hfull straps)) (absurd · (hend straps))
  · rcases hcond with h | ⟨h, -⟩ | ⟨levels, h, -⟩ | ⟨straps, h, -⟩
    · obtain ⟨claims, h⟩ := h l
      rw [h]
    · exact absurd h hc
    · exact absurd h (hs levels)
    · exact h.elim (absurd · (hfull straps)) (absurd · (hend straps))

end Sys2Proof.Machine
end

section
/-! The engines' commands where no earlier event may still fault a slot they concern: what each takes, and that it touches the
slots and the lines it concerns alone (R13, R14, R39). -/

namespace Sys2Proof.Machine

variable {s t : State} {k j : Slot} {v : View} {turns : Turns}

/-! ### What an engine's command takes -/

theorem readyFor_of_decided {slots : List Slot} (h : ∀ j ∈ slots, s.undecided j = false) : s.readyFor slots = s := by
  rcases s.readyFor_eq slots with ⟨he, -⟩ | ⟨-, j, hj, hu⟩
  · exact he
  · rw [h j hj] at hu
    cases hu

/-- In a hard reset an engine takes nothing (log 2). -/
theorem exec_engine_in_reset {c : Turns → Instr} (hc : c = .taskUpdate k ∨ c = .taskClock k ∨ c = .deadlineExpiry k)
    (hr : s.inReset ≠ none) : exec (c turns) s = .next s := by
  have hr : s.inReset.isSome = true := Option.isSome_iff_ne_none.2 hr
  rcases hc with rfl | rfl | rfl
  · exact congrArg _ (if_pos hr)
  · exact congrArg _ (if_pos hr)
  · exact congrArg _ (if_pos hr)

theorem exec_taskUpdate_of_none (hr : s.inReset = none) (hv : s.tasks.updates.get k = none) :
    exec (.taskUpdate k turns) s = .next (s.takeTurns turns) := by
  change Host.Outcome.next (updateEvent k turns s) = _
  rw [updateEvent, hr, hv]
  rfl

/-- An update that waits is taken once the events that may still fault a concerned slot are over. -/
theorem exec_taskUpdate (hr : s.inReset = none) (hv : s.tasks.updates.get k = some v) :
    exec (.taskUpdate k turns) s =
      .next ((takeUpdate k v ((s.readyFor (s.concerned k)).dropUpdate k)).takeTurns turns) := by
  change Host.Outcome.next (updateEvent k turns s) = _
  rw [updateEvent, hr, hv]
  rfl

theorem exec_taskUpdate_of_decided (hr : s.inReset = none) (hv : s.tasks.updates.get k = some v)
    (hu : ∀ j ∈ s.concerned k, s.undecided j = false) :
    exec (.taskUpdate k turns) s = .next ((takeUpdate k v (s.dropUpdate k)).takeTurns turns) := by
  rw [exec_taskUpdate hr hv, readyFor_of_decided hu]

theorem exec_taskClock_of_decided (hr : s.inReset = none) (hu : ∀ j ∈ s.concerned k, s.undecided j = false) :
    exec (.taskClock k turns) s = .next ((if s.clockFallen k then takeClock k s else s).takeTurns turns) := by
  change Host.Outcome.next (clockEvent k turns s) = _
  rw [clockEvent, hr, engineEvent, readyFor_of_decided hu]
  cases s.clockFallen k <;> rfl

theorem exec_deadlineExpiry_of_decided (hr : s.inReset = none) (hu : ∀ j ∈ s.concerned k, s.undecided j = false) :
    exec (.deadlineExpiry k turns) s = .next ((if s.expiryFallen k then takeExpiry k s else s).takeTurns turns) := by
  change Host.Outcome.next (expiryEvent k turns s) = _
  rw [expiryEvent, hr, engineEvent, readyFor_of_decided hu]
  cases s.expiryFallen k <;> rfl

/-! ### What it touches -/

/-- The output lines the slots of `D` name are those they own. -/
theorem State.OwnershipSound.linesOf_of_linesAt {D : Slot → Prop} {l : OutLine} (ho : s.OwnershipSound)
    (h : s.linesAt D l) : s.linesOf D l := by
  rcases h with h | ⟨j, a, r, hj, ha, hl⟩
  · exact h
  · exact ⟨j, r, (ho.owners l j r).2 ⟨a, ha, hl⟩, hj⟩

/-- An engine's event touches its slot and the dependents, with the lines they own, and their offers alone. -/
theorem EventLeaves.touches_own {now : Time} (h : EventLeaves (s.reach k) now s t) (ho : s.OwnershipSound) :
    OtherBlocksKept s t ∧ t.link = s.link ∧ t.reports = s.reports ∧
      (t.events = s.events ∨
        ∃ e, t.events = s.events ++ [e] ∧ e.lost = [] ∧ ∀ o ∈ e.offers, o.slot ∈ s.concerned k) ∧
      t.tasks.updates = s.tasks.updates ∧
      (∀ j, j ≠ k → j ∉ s.dependents k → t.task? j = s.task? j) ∧
      (∀ j a, s.task? j = some a → ∃ b, t.task? j = some b ∧ b.common = a.common ∧
        b.engine.params = a.engine.params) ∧
      (∀ l, (t.lines.outputs.get l).idle = (s.lines.outputs.get l).idle ∧
        (t.lines.outputs.get l).owner = (s.lines.outputs.get l).owner) ∧
      ∀ l, (∀ j r, (s.lines.outputs.get l).owner = .task j r → j ≠ k ∧ j ∉ s.dependents k) →
        t.lines.outputs.get l = s.lines.outputs.get l := by
  refine ⟨h.touches.outside.blocks, h.touches.outside.link, h.reports, h.events.imp id ?_, h.touches.outside.updates,
    fun j hj hd => h.touches.slots j fun hreach => hreach.elim hj hd, fun j a ha => h.touches.task ha,
    fun l => ⟨h.touches.idle l, h.touches.owner l⟩, fun l hl => h.touches.outputs l fun hat => ?_⟩
  · rintro ⟨e, he, -, -, hlost, -, hslots⟩
    exact ⟨e, he, hlost, fun o ho => mem_concerned.2 (hslots o ho)⟩
  · obtain ⟨j, r, hr, hj⟩ := ho.linesOf_of_linesAt hat
    exact hj.elim (hl j r hr).1 (hl j r hr).2

theorem eventLeaves_ite {D : Slot → Prop} {now : Time} {b : Prop} [Decidable b] (h : EventLeaves D now s t) :
    EventLeaves D now s (if b then t else s) := by
  split
  exacts [h, eventLeaves_nothing now]

/-- Settles O40: an event is steps that touch its own slots and lines (`EventLeaves`), and the turns touch the slots that an
open event may still fault. -/
theorem engineEventTouchesOnlyItsOwn : Obligations.EngineEventTouchesOnlyItsOwn := by
  refine ⟨fun s k c ho hc hu => ?_, ?_⟩
  · by_cases hr : s.inReset = none
    · refine .inr ?_
      rcases hc with rfl | rfl | rfl
      · cases hv : s.tasks.updates.get k with
        | none =>
          obtain ⟨h1, h2, h3, h4, h5, h6⟩ := (eventLeaves_nothing (D := s.reach k) (s := s) 0).touches_own ho
          exact ⟨s, fun turns => exec_taskUpdate_of_none hr hv, h1, h2, h3, h4, fun _ _ => by rw [h5], h6⟩
        | some v =>
          have hdrop : (s.dropUpdate k).OwnershipSound := ⟨ho.claims, ho.places, ho.ordered, ho.owners⟩
          obtain ⟨h1, h2, h3, h4, h5, h6⟩ := (takeUpdate_leaves k v (s.dropUpdate k)).touches_own hdrop
          exact ⟨_, fun turns => exec_taskUpdate_of_decided hr hv hu, ⟨h1.1, h1.2, h1.3, h1.4, h1.5, h1.6⟩, h2, h3, h4,
            fun j hj => by rw [h5, State.dropUpdate_updates, Bank.get_set_ne _ _ hj], h6⟩
      · obtain ⟨h1, h2, h3, h4, h5, h6⟩ :=
          (eventLeaves_ite (b := s.clockFallen k = true) (takeClock_leaves k s)).touches_own ho
        exact ⟨_, fun turns => exec_taskClock_of_decided hr hu, h1, h2, h3, h4, fun _ _ => by rw [h5], h6⟩
      · obtain ⟨h1, h2, h3, h4, h5, h6⟩ :=
          (eventLeaves_ite (b := s.expiryFallen k = true) (takeExpiry_leaves k s)).touches_own ho
        exact ⟨_, fun turns => exec_deadlineExpiry_of_decided hr hu, h1, h2, h3, h4, fun _ _ => by rw [h5], h6⟩
    · exact .inl ⟨hr, fun turns => exec_engine_in_reset hc hr⟩
  · rintro s _ turns rfl
    have h := touches_takeTurns (s := s) (D := fun j => s.undecided j = true) turns fun _ => id
    refine ⟨h.outside.blocks, h.outside.link, h.outside.updates, fun j hj => h.slots j (by simp [hj]),
      fun l => ⟨h.idle l, h.owner l⟩, fun l hl => h.outputs l ?_⟩
    rintro ⟨j, r, hr, hj⟩
    rw [hl j r hr] at hj
    cases hj

end Sys2Proof.Machine
end

section
/-! The queue takes the offers of open events: an offered report is admitted or counted, a turn takes one offer, and an event
ends with the faults of the CRITICAL tasks that lost a report (R25, R138, R145 to R147, R154). -/

namespace Sys2Proof.Machine

variable {s t : State} {e : OpenEvent} {j k : Slot} {q : ReportQueue} {source : Source} {epoch : Epoch} {time : Time}
  {r : Report} {P Q : Slot → Prop} {faults : List Offer}

/-! ### An offered report (R145, R149 to R151) -/

theorem lose_into_open_gap {older : List Entry} {gap : Entry} {count : Nat} (hq : q.entries = older ++ [gap])
    (hgap : gap.report = .gap count true) :
    q.lose epoch time = { q with entries := older ++ [{ gap with report := .gap (min 65535 (count + 1)) true }] } := by
  have htail : q.tailOpenGap = true := q.tailOpenGap_iff.2 ⟨older, gap, count, hq, hgap⟩
  simp [ReportQueue.lose, htail, hq, Entry.raised_gap hgap]

/-- Settles O37: the admission of `offer_admitted`, and the two ways of a loss by the tail of the queue. -/
theorem offeredReportIsAdmittedOrCounted : Obligations.OfferedReportIsAdmittedOrCounted := by
  refine fun q source epoch time r => ⟨fun h => q.offer_admitted source epoch time r h, fun older gap count h hq hgap => ?_,
    fun h hq => ?_⟩
  · rw [q.offer_refused source epoch time r h]
    exact lose_into_open_gap hq hgap
  · have htail : q.tailOpenGap = false := by
      rw [← Bool.not_eq_true, q.tailOpenGap_iff]
      rintro ⟨older, gap, count, hold, hgap⟩
      exact hq older gap count hold hgap
    rw [q.offer_refused source epoch time r h, q.lose_counted epoch time htail]
    exact if_congr (by omega) rfl rfl

/-! ### The faults at an event's end (R24, R25, R154) -/

/-- Which slots lose a report matters for the tasks that are not FAULTED already. -/
theorem FaultsTaken.congr (h : FaultsTaken s t P faults)
    (hPQ : ∀ j a, s.task? j = some a → a.state ≠ .faulted → (P j ↔ Q j)) : FaultsTaken s t Q faults := by
  have hspared : ∀ j a, s.task? j = some a → a.state = .faulted ∨ ¬Q j → a.state = .faulted ∨ ¬P j := by
    intro j a ha hq
    by_cases hf : a.state = .faulted
    · exact .inl hf
    · exact .inr fun hp => hq.elim hf fun hn => hn ((hPQ j a ha hf).1 hp)
  exact
    { once := h.once
      offers := fun o => (h.offers o).trans (exists_congr fun a => and_congr_right fun ha => and_congr_right fun hf =>
        and_congr_left fun _ => hPQ o.slot a ha hf)
      faulted := fun j a ha hf hl => h.faulted j a ha hf ((hPQ j a ha hf).2 hl)
      kept := fun j hk => h.kept j fun a ha => hspared j a ha (hk a ha)
      idled := fun l j r a hr ha hf hl => h.idled l j r a hr ha hf ((hPQ j a ha hf).2 hl)
      levels := fun l hl => h.levels l fun j r hr a ha => hspared j a ha (hl j r hr a ha)
      blocks := h.blocks
      link := h.link
      updates := h.updates }

theorem FaultsTaken.nothing (s : State) (h : ∀ j, ¬P j) : FaultsTaken s s P [] where
  once := List.nodup_nil
  offers o := iff_of_false List.not_mem_nil (by rintro ⟨a, -, -, hp, -⟩; exact h _ hp)
  faulted j _ _ _ hp := absurd hp (h j)
  kept _ _ := rfl
  idled _ j _ _ _ _ _ hp := absurd hp (h j)
  levels _ _ := rfl
  blocks := ⟨rfl, rfl, rfl, rfl, rfl, rfl⟩
  link := rfl
  updates := rfl

theorem State.task?_fault_self (s : State) (k : Slot) (a : Task) (reason : FaultReason) :
    (s.fault k a reason).task? k =
      some { a with
        state := .faulted, held := false, clockDue := false, faultReason := some reason
        engine := a.engine.released } := by
  simp [State.fault_eq, State.restOutputs]

/-- One more noted slot whose task is not yet FAULTED faults. -/
theorem FaultsTaken.fault {a : Task} (h : FaultsTaken s t P faults) (howner : ∀ l,
    (t.lines.outputs.get l).owner = (s.lines.outputs.get l).owner) (hk : ¬P k) (ha : s.task? k = some a)
    (hf : a.state ≠ .faulted) :
    FaultsTaken s (t.fault k a .reportLost) (fun j => P j ∨ j = k)
      (faults ++ [offerOf k a (.taskFault .reportLost a.engine.principal)]) := by
  have hne : ∀ {j}, P j → j ≠ k := fun hp e => hk (e ▸ hp)
  have hmine : ∀ l r, (s.lines.outputs.get l).owner = .task k r →
      (t.lines.outputs.get l) = s.lines.outputs.get l := fun l r hr =>
    h.levels l fun j r' hr' a' ha' => by
      rw [hr] at hr'
      cases hr'
      exact .inr hk
  have hother : ∀ l, (∀ r, (s.lines.outputs.get l).owner ≠ .task k r) →
      (t.fault k a .reportLost).lines.outputs.get l = t.lines.outputs.get l := fun l hl => by
    rw [t.fault_outputs k a, if_neg]
    rw [ownedBy_iff, howner]
    exact fun ⟨r, hr⟩ => hl r hr
  refine
    { once := ?once, offers := fun o => ?offers, faulted := fun j b hb hbf hp => ?faulted, kept := fun j hkept => ?kept
      idled := fun l j r b hr hb hbf hp => ?idled, levels := fun l hl => ?levels
      blocks := ⟨h.blocks.1, h.blocks.2, h.blocks.3, h.blocks.4, h.blocks.5, h.blocks.6⟩, link := h.link
      updates := h.updates }
  case once =>
    rw [List.map_append, List.nodup_append]
    refine ⟨h.once, List.nodup_singleton _, ?_⟩
    intro x hx y hy
    obtain ⟨o, ho, rfl⟩ := List.mem_map.1 hx
    obtain ⟨b, -, -, hp, -⟩ := (h.offers o).1 ho
    rw [List.map_singleton, List.mem_singleton] at hy
    rw [hy]
    exact hne hp
  case offers =>
    rw [List.mem_append, h.offers o, List.mem_singleton]
    constructor
    · rintro (⟨b, hb, hbf, hp, ho⟩ | ho)
      · exact ⟨b, hb, hbf, .inl hp, ho⟩
      · subst ho
        exact ⟨a, ha, hf, .inr rfl, rfl⟩
    · rintro ⟨b, hb, hbf, hp | hp, ho⟩
      · exact .inl ⟨b, hb, hbf, hp, ho⟩
      · rw [hp, ha] at hb
        cases hb
        rw [hp] at ho
        exact .inr ho
  case faulted =>
    by_cases hj : j = k
    · subst hj
      rw [ha] at hb
      cases hb
      rw [State.task?_fault_self]
      cases a.engine <;> rfl
    · rw [t.fault_task?_ne k j hj]
      exact h.faulted j b hb hbf (hp.resolve_right hj)
  case kept =>
    have hj : j ≠ k := by
      rintro rfl
      exact (hkept a ha).elim hf fun hn => hn (.inr rfl)
    rw [t.fault_task?_ne k j hj]
    exact h.kept j fun b hb => (hkept b hb).imp id fun hn hp => hn (.inl hp)
  case idled =>
    by_cases hj : j = k
    · subst hj
      rw [t.fault_outputs, if_pos (by rw [ownedBy_iff, howner]; exact ⟨r, hr⟩), hmine l r hr]
      rfl
    · rw [hother l fun r' hr' => hj (by rw [hr] at hr'; cases hr'; rfl)]
      exact h.idled l j r b hr hb hbf (hp.resolve_right hj)
  case levels =>
    have hno : ∀ r, (s.lines.outputs.get l).owner ≠ .task k r := fun r hr =>
      (hl k r hr a ha).elim hf fun hn => hn (.inr rfl)
    rw [hother l hno]
    exact h.levels l fun j r hr b hb => (hl j r hr b hb).imp id fun hn hp => hn (.inl hp)

/-- The noted slots fault, each once. -/
theorem faultAll_faultsTaken (s : State) (lost : List Slot) :
    FaultsTaken s (s.faultAll lost).1 (fun j => j ∈ lost) (s.faultAll lost).2 := by
  induction lost using List.reverseRecOn with
  | nil => exact .nothing s fun _ => List.not_mem_nil
  | append_singleton init k ih =>
    have hstep : s.faultAll (init ++ [k]) = faultLost (s.faultAll init) k := by simp [State.faultAll]
    have hmem : ∀ j, j ∈ init ++ [k] ↔ j ∈ init ∨ j = k := by simp
    have howner : ∀ l, ((s.faultAll init).1.lines.outputs.get l).owner = (s.lines.outputs.get l).owner :=
      (touches_foldl_faultLost (D := fun _ => True) init (s, []) fun _ _ => trivial).owner
    by_cases hk : k ∈ init
    · have hleft : ∀ b, (s.faultAll init).1.task? k = some b → b.state = .faulted := by
        intro b hb
        by_cases hf : ∀ a, s.task? k = some a → a.state = .faulted
        · exact hf b ((ih.kept k fun a ha => .inl (hf a ha)).symm.trans hb)
        · push Not at hf
          obtain ⟨a, ha, hf⟩ := hf
          rw [ih.faulted k a ha hf hk] at hb
          cases hb
          rfl
      rw [hstep, faultLost_left k _ hleft]
      refine ih.congr fun j _ _ _ => ?_
      rw [hmem]
      exact ⟨.inl, fun hj => hj.elim id fun e => e ▸ hk⟩
    · have hsame : (s.faultAll init).1.task? k = s.task? k := ih.kept k fun _ _ => .inr hk
      by_cases hf : ∀ a, s.task? k = some a → a.state = .faulted
      · rw [hstep, faultLost_left k _ (hsame ▸ hf)]
        refine ih.congr fun j a ha hfa => ?_
        rw [hmem]
        refine ⟨.inl, fun hj => hj.resolve_right ?_⟩
        rintro rfl
        exact hfa (hf a ha)
      · push Not at hf
        obtain ⟨a, ha, hf⟩ := hf
        rw [hstep, faultLost_faults k _ (hsame.trans ha) hf]
        exact (ih.fault howner hk ha hf).congr fun j _ _ _ => (hmem j).symm

/-! ### Events brought to their end -/

/-- Which slots the offers of an event note: those that lose a report whose loss faults the task (R25, R154). -/
theorem mem_lost_foldl_takeOffer (offers : List Offer) (x : State × OpenEvent) :
    j ∈ (offers.foldl takeOffer x).2.lost ↔ j ∈ x.2.lost ∨ Loses x.1.reports x.2.epoch x.2.time offers j := by
  induction offers generalizing x with
  | nil =>
    refine ⟨.inl, fun h => h.resolve_right ?_⟩
    rintro ⟨before, o, after, h, -⟩
    simp at h
  | cons o rest ih =>
    have hloses : Loses x.1.reports x.2.epoch x.2.time (o :: rest) j ↔
        (o.slot = j ∧ o.faultsIfLost = true ∧ 63 ≤ x.1.reports.entries.length) ∨
          Loses (x.1.reports.offer (.slot o.slot) x.2.epoch x.2.time o.report) x.2.epoch x.2.time rest j := by
      constructor
      · rintro ⟨before, o', after, h, hslot, hclass, hr, hfull⟩
        cases before with
        | nil =>
          cases h
          exact .inl ⟨hslot, o.faultsIfLost_iff.2 ⟨hclass, hr⟩, hfull⟩
        | cons y before =>
          cases h
          exact .inr ⟨before, o', after, rfl, hslot, hclass, hr, hfull⟩
      · rintro (⟨hslot, hf, hfull⟩ | ⟨before, o', after, rfl, hrest⟩)
        · obtain ⟨hclass, hr⟩ := o.faultsIfLost_iff.1 hf
          exact ⟨[], o, rest, rfl, hslot, hclass, hr, hfull⟩
        · exact ⟨o :: before, o', after, rfl, hrest⟩
    rw [List.foldl_cons, ih, takeOffer_epoch, takeOffer_time, takeOffer_reports, hloses, ← or_assoc, takeOffer_lost]
    refine or_congr_left ?_
    split
    next h =>
      rw [List.mem_append, List.mem_singleton]
      refine or_congr_right ⟨fun e => ⟨e.symm, h.2, h.1⟩, fun e => e.1.symm⟩
    next h => exact ⟨.inl, fun hj => hj.resolve_right fun e => h ⟨e.2.2, e.2.1⟩⟩

/-- The report queue and the open events have no part in the faults of an event. -/
theorem FaultsTaken.ofReports {reports reports' : ReportQueue} {events events' : List OpenEvent}
    (h : FaultsTaken { s with reports := reports, events := events } t P faults) :
    FaultsTaken s { t with reports := reports', events := events' } P faults where
  once := h.once
  offers := h.offers
  faulted := h.faulted
  kept := h.kept
  idled := h.idled
  levels := h.levels
  blocks := ⟨h.blocks.1, h.blocks.2, h.blocks.3, h.blocks.4, h.blocks.5, h.blocks.6⟩
  link := h.link
  updates := h.updates

theorem foldl_takeOffer_event (offers : List Offer) (x : State × OpenEvent) :
    (offers.foldl takeOffer x).2.epoch = x.2.epoch ∧ (offers.foldl takeOffer x).2.time = x.2.time := by
  induction offers generalizing x with
  | nil => exact ⟨rfl, rfl⟩
  | cons o rest ih =>
    obtain ⟨h1, h2⟩ := ih (takeOffer x o)
    exact ⟨h1.trans (takeOffer_epoch o x), h2.trans (takeOffer_time o x)⟩

theorem offered_append (xs ys : List Offer) : offered q epoch time (xs ++ ys) = offered (offered q epoch time xs) epoch time ys :=
  List.foldl_append

/-- An event brought to its end: its offers are taken, its losers fault, and their TASK_FAULTs are taken. -/
theorem settleEvent_faultsTaken (s : State) (e : OpenEvent) :
    ∃ faults,
      FaultsTaken s (s.settleEvent e) (fun j => j ∈ e.lost ∨ Loses s.reports e.epoch e.time e.offers j) faults ∧
        (s.settleEvent e).reports = offered s.reports e.epoch e.time (e.offers ++ faults) ∧
        (s.settleEvent e).events = s.events := by
  obtain ⟨x, hx⟩ : ∃ x, x = e.offers.foldl takeOffer (s, e) := ⟨_, rfl⟩
  obtain ⟨hepoch, htime⟩ := foldl_takeOffer_event e.offers (s, e)
  have hstate := foldl_takeOffer_state e.offers (s, e)
  have hlost : ∀ j, j ∈ x.2.lost ↔ j ∈ e.lost ∨ Loses s.reports e.epoch e.time e.offers j := fun j => by
    rw [hx]
    exact mem_lost_foldl_takeOffer e.offers (s, e)
  have hend : s.settleEvent e =
      { (x.1.faultAll x.2.lost).1 with
        reports := offered (x.1.faultAll x.2.lost).1.reports x.2.epoch x.2.time (x.1.faultAll x.2.lost).2 } := by
    rw [hx]
    exact foldl_takeOffer_state _ _
  rw [← hx] at hepoch htime hstate
  have hfaults := faultAll_faultsTaken x.1 x.2.lost
  have hreports : (x.1.faultAll x.2.lost).1.reports = x.1.reports := (foldl_faultLost_outside x.2.lost (x.1, [])).2.1
  refine ⟨(x.1.faultAll x.2.lost).2, ?_, ?_, (s.settleEvent_outside e).2⟩
  · rw [hend]
    rw [show x.1 = { s with reports := offered s.reports e.epoch e.time e.offers, events := s.events } from hstate]
      at hfaults ⊢
    exact hfaults.ofReports.congr fun j _ _ _ => hlost j
  · rw [hend, hreports, hepoch, htime, hstate, offered_append]

/-! ### Open events do not bear on what is taken of another -/

theorem faultLost_events (x : State × List Offer) (events : List OpenEvent) (k : Slot) :
    faultLost ({ x.1 with events := events }, x.2) k = ({ (faultLost x k).1 with events := events }, (faultLost x k).2) := by
  unfold faultLost
  change (match x.1.task? k with | some _ => _ | none => _) = _
  cases x.1.task? k with
  | none => rfl
  | some a =>
    dsimp only
    split <;> rfl

theorem faultAll_events (s : State) (events : List OpenEvent) (lost : List Slot) :
    State.faultAll { s with events := events } lost = ({ (s.faultAll lost).1 with events := events }, (s.faultAll lost).2) := by
  induction lost using List.reverseRecOn with
  | nil => rfl
  | append_singleton init k ih =>
    unfold State.faultAll at ih ⊢
    rw [List.foldl_append, List.foldl_append, ih]
    exact faultLost_events _ events k

theorem settleEvent_events (s : State) (events : List OpenEvent) (e : OpenEvent) :
    State.settleEvent { s with events := events } e = { s.settleEvent e with events := events } := by
  have hlost : (e.offers.foldl takeOffer ({ s with events := events }, e)).2 = (e.offers.foldl takeOffer (s, e)).2 := by
    have hpair : ∀ (offers : List Offer) (x : State × OpenEvent),
        offers.foldl takeOffer ({ x.1 with events := events }, x.2) =
          ({ (offers.foldl takeOffer x).1 with events := events }, (offers.foldl takeOffer x).2) := by
      intro offers
      induction offers with
      | nil => exact fun _ => rfl
      | cons o rest ih => exact fun x => ih (takeOffer x o)
    rw [hpair e.offers (s, e)]
  unfold State.settleEvent
  simp only [foldl_takeOffer_state, hlost]
  rw [faultAll_events { s with reports := offered s.reports e.epoch e.time e.offers } events]

theorem settle_of_no_events (h : s.events = []) : s.settle = s := by
  unfold State.settle
  rw [h, List.foldl_nil, ← h]

theorem settle_cons {rest : List OpenEvent} (h : s.events = e :: rest) :
    s.settle = (State.settleEvent { s with events := rest } e).settle := by
  unfold State.settle
  rw [h, List.foldl_cons, settleEvent_events s [], settleEvent_events s rest]

/-- An event rid of some slots concerns none of them. -/
theorem concerns_none_iff {slots : List Slot} :
    slots.any e.concerns = false ↔ ∀ k ∈ slots, k ∉ e.lost ∧ ∀ o ∈ e.offers, o.slot ≠ k := by
  simp only [List.any_eq_false, e.concerns_iff, not_or, not_exists, not_and, ne_eq]

theorem clearFor_of_rid {slots : List Slot} (h : ∀ x ∈ s.events, slots.any (OpenEvent.concerns x) = false) :
    s.clearFor slots = s := by
  rcases s.clearFor_eq slots with ⟨he, -⟩ | ⟨-, k, hk, hu⟩
  · exact he
  · obtain ⟨x, hx, hk'⟩ := List.any_eq_true.1 hu
    exact absurd hk' (by simpa using List.any_eq_false.1 (h x hx) k hk)

theorem clearFor_of_not_rid {slots : List Slot} (h : ∃ x ∈ s.events, slots.any (OpenEvent.concerns x) = true) :
    s.clearFor slots = s.settle := by
  rcases s.clearFor_eq slots with ⟨-, hu⟩ | ⟨he, -⟩
  · obtain ⟨x, hx, hc⟩ := h
    obtain ⟨k, hk, hkx⟩ := List.any_eq_true.1 hc
    have := hu k hk
    rw [State.unfinished, List.any_eq_false] at this
    exact absurd hkx (this x hx)
  · exact he

/-- The event of a request, the last one open and the only one of its slots, is brought to its end alone. -/
theorem endEventsOf_last {slots : List Slot} {before : List OpenEvent} (h : s.events = before ++ [e])
    (hbefore : ∀ x ∈ before, slots.any (OpenEvent.concerns x) = false) (he : slots.any e.concerns = true) :
    s.endEventsOf slots = State.settleEvent { s with events := before } e := by
  have h1 : (s.events.filter fun x => slots.any x.concerns) = [e] := by
    rw [h, List.filter_append, List.filter_eq_nil_iff.2 fun x hx => by rw [hbefore x hx]; nofun]
    simp [he]
  have h2 : (s.events.filter fun x => !slots.any x.concerns) = before := by
    rw [h, List.filter_append, List.filter_eq_self.2 fun x hx => by rw [hbefore x hx]; rfl]
    simp [he]
  unfold State.endEventsOf
  rw [h1, h2]
  rfl

/-- A TASK_FAULT that waits alone enters the queue where it has room, and faults nothing. -/
theorem settle_taskFault {a : Task} {final : BitVec 32} (h : s.events = [e]) (hown : e.own = [])
    (hfree : e.free = [offerOf j a (.taskFault .reportLost final)]) (hlost : e.lost = [])
    (hroom : s.reports.entries.length ≤ 62) :
    s.settle =
      { s with
        reports := s.reports.append (.slot j) e.epoch e.time (.taskFault .reportLost final)
        events := [] } := by
  have hoffers : e.offers = [offerOf j a (.taskFault .reportLost final)] := by simp [OpenEvent.offers, hown, hfree]
  have htaken : takeOffer ({ s with events := [] }, e) (offerOf j a (.taskFault .reportLost final)) =
      ({ s with
          reports := s.reports.append (.slot j) e.epoch e.time (.taskFault .reportLost final)
          events := [] }, e) := by
    refine Prod.ext ?_ ?_
    · rw [takeOffer_state]
      exact congrArg (fun q => { s with reports := q, events := [] }) (s.reports.offer_admitted _ _ _ _ hroom)
    · rw [takeOffer_lost, if_neg]
      rintro ⟨hfull, -⟩
      exact absurd hfull (by dsimp only; omega)
  rw [settle_cons h, settle_of_no_events (by rw [(State.settleEvent_outside _ e).2])]
  unfold State.settleEvent
  rw [hoffers, List.foldl_cons, htaken, List.foldl_nil]
  dsimp only
  rw [hlost]
  rfl

/-- Settles O39: an event's end by `settleEvent_faultsTaken`, and the order in which open events end. -/
theorem eventEndsWithTheFaultsOfItsLosses : Obligations.EventEndsWithTheFaultsOfItsLosses := by
  refine ⟨settleEvent_faultsTaken, fun s => settle_of_no_events, fun s e rest => settle_cons, fun s slots rid hrid => ?_,
    fun s e j a final h hown hfree hlost hroom => settle_taskFault h hown hfree hlost hroom⟩
  subst hrid
  simp only [← concerns_none_iff]
  refine ⟨fun h => ⟨clearFor_of_rid h, s.endEventsOf_none slots h⟩, fun h => clearFor_of_not_rid ?_,
    fun before e h hb he => endEventsOf_last h hb (by simpa using he)⟩
  simpa using h

/-! ### A turn -/

theorem takeTurn_of_no_offer (h : ∀ e ∈ s.events, ∀ o ∈ e.offers, o.slot ≠ j) : s.takeTurn j = s := by
  have hspan : (s.events.span fun e => !e.holds j) = (s.events, []) := by
    have hall : ∀ e ∈ s.events, (fun e : OpenEvent => !e.holds j) e = true := fun e he => by
      simpa [OpenEvent.holds] using h e he
    rw [List.span_eq_takeWhile_dropWhile, List.takeWhile_eq_self_iff.2 hall, List.dropWhile_eq_nil_iff.2 hall]
  unfold State.takeTurn
  rw [hspan]

/-- The event whose offers a turn of slot `j` looks at: the oldest that holds one of `j`. -/
structure TurnAt (s : State) (j : Slot) (before : List OpenEvent) (e : OpenEvent) (after : List OpenEvent) : Prop where
  events : s.events = before ++ e :: after
  earlier : ∀ x ∈ before, ∀ o ∈ x.offers, o.slot ≠ j
  holds : ∃ o ∈ e.offers, o.slot = j

theorem TurnAt.span {before after : List OpenEvent} (h : TurnAt s j before e after) :
    (s.events.span fun x => !x.holds j) = (before, e :: after) := by
  rw [h.events]
  refine span_holds (j := j) (e := e) (fun x hx => ?_) ((e.holds_iff j).2 h.holds)
  simpa [OpenEvent.holds] using h.earlier x hx

theorem next?_own {o : Offer} {own : List Offer} (h : e.own = o :: own) (ho : o.slot = j) :
    e.next? j = some (o, { e with own := own }) := by
  simp [OpenEvent.next?, h, ho]

theorem next?_own_other {o : Offer} {own : List Offer} (h : e.own = o :: own) (ho : o.slot ≠ j) : e.next? j = none := by
  simp [OpenEvent.next?, h, ho]

theorem next?_free {o : Offer} {l r : List Offer} (h : e.own = []) (hfree : e.free = l ++ o :: r) (ho : o.slot = j)
    (hl : ∀ x ∈ l, x.slot ≠ j) : e.next? j = some (o, { e with free := l ++ r }) := by
  have hnone : (l.find? fun o => o.slot == j) = none := List.find?_eq_none.2 fun x hx => by simpa using hl x hx
  have hfind : (e.free.find? fun o => o.slot == j) = some o := by
    rw [hfree, List.find?_append, hnone]
    simp [ho]
  have herase : e.free.erase o = l ++ r := by
    rw [hfree, List.erase_append_right _ fun hmem => hl o hmem ho, List.erase_cons_head]
  unfold OpenEvent.next?
  rw [h]
  dsimp only
  rw [hfind, Option.map_some, herase]

/-- What a turn does with the offer it takes. -/
theorem takeTurn_eq {before after : List OpenEvent} {o : Offer} {e' : OpenEvent} (h : TurnAt s j before e after)
    (hnext : e.next? j = some (o, e')) :
    s.takeTurn j =
      if (takeOffer (s, e') o).2.offers = [] then
        { ((takeOffer (s, e') o).1.faultAll (takeOffer (s, e') o).2.lost).1 with
          events := before ++
            (takeOffer (s, e') o).2.ended ((takeOffer (s, e') o).1.faultAll (takeOffer (s, e') o).2.lost).2 ++ after }
      else { (takeOffer (s, e') o).1 with events := before ++ (takeOffer (s, e') o).2 :: after } := by
  unfold State.takeTurn
  rw [h.span]
  dsimp only
  rw [hnext]
  exact if_congr List.isEmpty_iff rfl rfl

/-- The slot of an offer that is refused is noted where the loss faults its task (R25, R154). -/
theorem takeOffer_noting {o : Offer} {e' : OpenEvent} {lost : List Slot} (ho : o.slot = j) (hlost : e'.lost = e.lost)
    (h : (63 ≤ s.reports.entries.length ∧ o.reportClass = .critical ∧
          (∀ reason value, o.report ≠ .taskFault reason value) ∧ lost = e.lost ++ [j]) ∨
        ((s.reports.entries.length ≤ 62 ∨ o.reportClass = .normal ∨
          ∃ reason value, o.report = .taskFault reason value) ∧ lost = e.lost)) :
    (takeOffer (s, e') o).2 = { e' with lost := lost } := by
  rw [takeOffer_lost]
  rcases h with ⟨hfull, hclass, hr, rfl⟩ | ⟨hkept, rfl⟩
  · rw [if_pos ⟨hfull, o.faultsIfLost_iff.2 ⟨hclass, hr⟩⟩, ho, hlost]
  · rw [if_neg, ← hlost]
    rintro ⟨hfull, hf⟩
    obtain ⟨hclass, hr⟩ := o.faultsIfLost_iff.1 hf
    rcases hkept with hroom | hnormal | ⟨reason, value, hfault⟩
    · exact absurd hfull (by dsimp only; omega)
    · rw [hnormal] at hclass
      cases hclass
    · exact hr reason value hfault

theorem FaultsTaken.ofEvents {reports : ReportQueue} {events' : List OpenEvent}
    (h : FaultsTaken { s with reports := reports } t P faults) : FaultsTaken s { t with events := events' } P faults :=
  FaultsTaken.ofReports (reports := reports) (events := s.events) h

/-- Settles O38: a turn finds its event (`TurnAt`) and its offer there (`next?`), and ends the event with its last offer. -/
theorem turnsKeepEachEnginesOrder : Obligations.TurnsKeepEachEnginesOrder := by
  refine ⟨fun s j => takeTurn_of_no_offer, fun s j before after e hev hearlier hholds => ?_,
    fun s order j leave => ⟨rfl, rfl, rfl⟩⟩
  have hturn : TurnAt s j before e after := ⟨hev, hearlier, hholds⟩
  refine ⟨fun o own hown ho => ?_, fun o e' ho hnext q lost hq hlost => ?_⟩
  · unfold State.takeTurn
    rw [hturn.span]
    dsimp only
    rw [next?_own_other hown ho]
  have hnext' : e.next? j = some (o, e') ∧ e'.lost = e.lost ∧ e'.epoch = e.epoch ∧ e'.time = e.time := by
    rcases hnext with ⟨own, hown, rfl⟩ | ⟨hown, l, r, hfree, hl, rfl⟩
    · exact ⟨next?_own hown ho, rfl, rfl, rfl⟩
    · exact ⟨next?_free hown hfree ho hl, rfl, rfl, rfl⟩
  obtain ⟨hnext', hlost', hepoch, htime⟩ := hnext'
  have hnoted := takeOffer_noting ho hlost' hlost
  have htaken : (takeOffer (s, e') o).1 = { s with reports := q } := by
    rw [takeOffer_state, hq]
    dsimp only
    rw [ho, hepoch, htime]
  have heq := takeTurn_eq hturn hnext'
  rw [hnoted, htaken] at heq
  refine ⟨fun hleft => heq.trans (if_neg hleft), fun hlast => ?_⟩
  rw [show s.takeTurn j = _ from heq.trans (if_pos hlast)]
  refine ⟨_, (faultAll_faultsTaken { s with reports := q } lost).ofEvents, (foldl_faultLost_outside lost _).2.1, ?_⟩
  have hended : ∀ faults, OpenEvent.ended { e' with lost := lost } faults =
      if faults = [] then [] else [{ e with own := [], free := faults, lost := [] }] := by
    intro faults
    refine if_congr List.isEmpty_iff rfl ?_
    dsimp only
    rw [hepoch, htime]
  exact congrArg (fun x => before ++ x ++ after) (hended _)

end Sys2Proof.Machine
end

section
/-! The bytes of responses and reports (R194, R195, R197 to R201): each of the part's encodings is the layout the claims are
stated with. -/

namespace Sys2Proof.Machine

/-! ### Fields (R194) -/

theorem beBytes_three (n : Nat) : beBytes 3 n = three n := by simp [beBytes, three, two]

theorem beBytes_four (n : Nat) : beBytes 4 n = four n := by simp [beBytes, four, three, two]

theorem beBytes_six (n : Nat) : beBytes 6 n = six n := by simp [beBytes, six, four, three, two]

theorem numByte_eq {n : Nat} (i : Fin n) : numByte i = numberLayout i := rfl

theorem flagByte_eq (b : Bool) : flagByte b = flagLayout b := rfl

theorem optLineByte_eq {n : Nat} (l : Option (Fin n)) : optLineByte l = lineLayout l := by cases l <;> rfl

theorem levelCode_eq (l : Level) : levelCode l = levelLayout l := by cases l <;> rfl

theorem stateCode_eq (st : TaskState) : st.code = stateLayout st := by cases st <;> rfl

theorem kindCode_eq (k : KindParams) : k.code = kindLayout k := by cases k <;> rfl

theorem phaseCode_eq (p : Phase) : p.code = phaseLayout p := by cases p <;> rfl

theorem causeCode_eq (c : ResetCause) : c.code = causeLayout c := by cases c <;> rfl

theorem rateCode_eq (r : TickRate) : r.code = tickLayout r := by cases r <;> rfl

theorem senseCode_eq (c : Cond) : c.senseCode = senseLayout c := by cases c <;> rfl

/-! ### Frames and reports (R195, R201) -/

/-- The CRC in two bytes, high byte first. -/
theorem two_toNat (c : BitVec 16) : two c.toNat = [c.extractLsb' 8 8, c.extractLsb' 0 8] := by
  simp only [two, List.cons.injEq, and_true]
  constructor <;> apply BitVec.eq_of_toNat_eq <;> simp [Nat.shiftRight_eq_div_pow]

theorem frameBytes_eq (type tag : Byte) (payload : List Byte) :
    frameBytes type tag payload = frameLayout type tag payload := by
  rw [frameBytes, beBytes_two, two_toNat]
  rfl

theorem report_eq (r : Report) : (r.code, r.bytes) = reportLayout r := by
  cases r <;> simp [Report.code, Report.bytes, reportLayout, beBytes_two, beBytes_four, beBytes_six, flagByte_eq,
    causeCode_eq, reasonCode]
  case taskStarted c => cases c <;> rfl
  case taskDone e _ _ _ => cases e <;> rfl
  case taskFault f _ => cases f <;> rfl
  case positionCompare _ d => cases d <;> rfl
  case deadlineViolation v _ => cases v <;> rfl

theorem record_eq (e : Entry) : e.record = entryLayout e := by
  have hcode : e.report.code = (reportLayout e.report).1 := congrArg Prod.fst (report_eq e.report)
  have hbytes : e.report.bytes = (reportLayout e.report).2 := congrArg Prod.snd (report_eq e.report)
  have hsource : e.source.code = (match e.source with
      | .device => 0xFF
      | .slot k => numberLayout k) := by cases e.source <;> rfl
  rw [Entry.record, hcode, hbytes, hsource, beBytes_two, beBytes_six]
  rfl

/-! ### Task data (R197, R200) -/

theorem commonBytes_eq (c : Common) (k : KindParams) : c.bytes k = commonLayout c k := by
  simp only [Common.bytes, commonLayout, beBytes_three, beBytes_two, kindCode_eq, senseCode_eq, absentLine, numByte_eq,
    flagByte_eq]
  have hrepeats : c.repeats.code = (match c.repeats with
      | .once => 0x00
      | .rearm => 0x01
      | .continuous => 0x02) := by cases c.repeats <;> rfl
  have hpolicy : c.policy.code = (match c.policy with
      | .ignore => 0x00
      | .restart => 0x01
      | .fault => 0x02) := by cases c.policy <;> rfl
  have hclass : c.reportClass.code = (match c.reportClass with
      | .normal => 0x00
      | .critical => 0x01) := by cases c.reportClass <;> rfl
  rw [hrepeats, hpolicy, hclass]
  cases c.clock <;> cases c.trigger <;> cases c.gate <;> cases c.mark <;> rfl

theorem blockBytes_eq (k : KindParams) : k.bytes = blockLayout k := by
  cases k with
  | pulseTrain p => rw [KindParams.bytes, beBytes_two]; rfl
  | eventCount p => rw [KindParams.bytes, beBytes_four]; rfl
  | span p => cases h : p.mode <;> simp [KindParams.bytes, blockLayout, h, SpanMode.code, numByte_eq]
  | windowCount p =>
    cases h : p.source <;> simp [KindParams.bytes, blockLayout, h, numByte_eq, beBytes_four, absentLine]
    rfl
  | position p =>
    have haction : p.action.code = (match p.action with
        | .none => 0x00
        | .report => 0x01
        | .load => 0x02
        | .loadFirst => 0x03) := by cases p.action <;> rfl
    have hresolution : p.resolution.code = (match p.resolution with
        | .x1 => 0x00
        | .x2 => 0x01
        | .x4 => 0x02) := by cases p.resolution <;> rfl
    simp only [KindParams.bytes, blockLayout, haction, hresolution, beBytes_four, optLineByte_eq, numByte_eq, flagByte_eq]
    cases p.compare <;> rfl
  | deadline p => simp only [KindParams.bytes, blockLayout, beBytes_four, optLineByte_eq, numByte_eq]

theorem queryData_eq (k : Slot) (t : Option Task) : queryData k t = queryLayout k t := by
  cases t with
  | none => rfl
  | some t =>
    have hreason : reasonCode t.faultReason = (match t.faultReason with
        | none => 0x00
        | some .triggerOverrun => 0x01
        | some .reportLost => 0x02) := by cases t.faultReason with
      | none => rfl
      | some r => cases r <;> rfl
    simp only [queryData, queryLayout, beBytes_two, beBytes_six, commonBytes_eq, blockBytes_eq, stateCode_eq, flagByte_eq,
      numByte_eq, hreason] <;> rfl

theorem liveBytes_eq (e : Engine) : e.liveBytes = valuesLayout e := by
  cases e <;> simp [Engine.liveBytes, valuesLayout, beBytes_two, beBytes_three, beBytes_four, flagByte_eq, phaseCode_eq]

theorem countData_eq (k : Slot) (now : Time) (t : Option Task) : countData k now t = countLayout k now t := by
  cases t with
  | none => rw [countData, beBytes_six]; rfl
  | some t =>
    simp only [countData, countLayout, beBytes_six, stateCode_eq, kindCode_eq, liveBytes_eq, numByte_eq]

/-! ### Segments and lines (R198, R199) -/

theorem controlByte_eq (g : Segment) :
    g.control = BitVec.ofNat 8
      ((if g.level = .active then 1 else 0) + (if g.reportEnd then 4 else 0) + (if g.wait then 8 else 0)) := by
  rw [Segment.control]
  generalize g.level = level, g.reportEnd = reportEnd, g.wait = wait
  cases level <;> cases reportEnd <;> cases wait <;> decide

theorem segmentBytes_eq (g : Segment) : g.bytes = segmentLayout g := by
  rw [Segment.bytes, controlByte_eq, beBytes_three]
  rfl

theorem programData_eq (p : Program) (first : Nat) : programData p first = programLayout p first := by
  have hstate : p.state.code = (match p.state with
      | .empty => 0x00
      | .loading => 0x01
      | .sealed => 0x02) := by cases p.state <;> rfl
  have hbytes : Segment.bytes = segmentLayout := funext segmentBytes_eq
  simp only [programData, programLayout, hstate, hbytes, Config.maxBatch, List.length_take,
    List.length_drop] <;> rfl

theorem inputBytes_eq (i : Input) : i.bytes = inputLayout i := by
  obtain ⟨polarity, filter, raw, cond, candidate, claims⟩ := i
  cases raw <;> cases cond <;> cases polarity <;> rfl

theorem outputBytes_eq (o : Output) : o.bytes = outputLayout o := by
  obtain ⟨idle, owner, level, markEnd⟩ := o
  simp only [Output.bytes, outputLayout, levelCode_eq]
  cases owner with
  | none => rfl
  | host => rfl
  | task k r => cases r <;> rfl

/-- The places of a bank, in order. -/
theorem cells_eq_finRange {α : Type} {n : Nat} (b : Bank α n) : b.cells = (List.finRange n).map b.get := by
  apply List.ext_getElem
  · simp [b.size_eq]
  · intro i _ _
    simp [Bank.get]

theorem linesData_eq (u : LineUnit) (detail : Option InLine) : linesData u detail = linesLayout u detail := by
  have hinputs : u.inputs.cells.flatMap Input.bytes =
      (List.finRange 12).flatMap fun l => inputLayout (u.inputs.get l) := by
    rw [cells_eq_finRange, List.flatMap_map, ← funext inputBytes_eq]
  have houtputs : u.outputs.cells.flatMap Output.bytes =
      (List.finRange 8).flatMap fun l => outputLayout (u.outputs.get l) := by
    rw [cells_eq_finRange, List.flatMap_map, ← funext outputBytes_eq]
  rw [linesData, hinputs, houtputs]
  cases detail with
  | none => rfl
  | some l => rfl

/-! ### Other data (R189, R190, R196) -/

/-- Device time in six bytes. -/
theorem six_toNat (t : Time) :
    six t.toNat = [t.extractLsb' 40 8, t.extractLsb' 32 8, t.extractLsb' 24 8, t.extractLsb' 16 8, t.extractLsb' 8 8,
      t.extractLsb' 0 8] := by
  simp only [six, four, three, two, List.cons.injEq, and_true]
  refine ⟨?_, ?_, ?_, ?_, ?_, ?_⟩ <;> apply BitVec.eq_of_toNat_eq <;> simp [Nat.shiftRight_eq_div_pow]

theorem timeData_eq (t : Timebase) :
    timeData t = [t.time.extractLsb' 40 8, t.time.extractLsb' 32 8, t.time.extractLsb' 24 8, t.time.extractLsb' 16 8,
      t.time.extractLsb' 8 8, t.time.extractLsb' 0 8, t.epoch, tickLayout t.rate] := by
  rw [timeData, beBytes_six, six_toNat, rateCode_eq]
  rfl

theorem identityData_eq (l : Link) :
    identityData l =
      [0x7D, 0x31, 0x12, 0x08, 0x01, 16, 12, 8, 8, 0x01, 0x00, 64, BitVec.ofNat 8 l.rate.val, causeLayout l.lastReset] := by
  rw [identityData, causeCode_eq]
  rfl

theorem linkStatusData_eq (l : Link) (session : Option Nat) :
    linkStatusData l session =
      two l.crcErrors ++ two l.oversizeFrames ++ two l.abandonedFrames ++ two l.droppedFrames ++
        (match session with
         | some w => [0x01, BitVec.ofNat 8 w]
         | none => [0x00, 0x00]) ++ [flagLayout l.opened, BitVec.ofNat 8 l.rate.val] := by
  simp only [linkStatusData, beBytes_two]
  cases session <;> rfl

end Sys2Proof.Machine
end

section
/-! The step, the resets and the events of the link: what each command does, told by the state it finds (R47, R164 to R166,
R173 to R187, R191, R192). -/

namespace Sys2Proof.Machine

variable {s : State} {c : Instr} {q : Request} {f : Frame} {rest : List Frame} {type : Byte} {p : List Byte} {l : Link}
  {b : Byte}

/-! ### The step and the resets -/

/-- Settles O1: a step is `exec` of the front command, and every meaning answers a next state. -/
theorem stepCarriesOutTheFrontCommand : Obligations.StepCarriesOutTheFrontCommand := by
  refine ⟨fun c rest s h => ?front, fun s h => ?idle, fun s => ?next⟩
  case front => rw [step, h]
  case idle => rw [step, h]
  case next =>
    unfold step
    split
    · exact ⟨_, rfl⟩
    · next i rest h => cases i <;> exact ⟨_, rfl⟩

theorem beginHardReset_power (s : State) : (beginHardReset .power s).inReset = some .power ∧
    (beginHardReset .power s).pending = s.pending := by
  rw [beginHardReset, if_neg (by simp)]
  exact ⟨rfl, rfl⟩

theorem task?_reset (k : Slot) : State.reset.task? k = none := by simp [State.reset, State.task?]

theorem storeSound_reset : State.reset.StoreSound := storeSound_resetTo [] .power { br1 := .low, br0 := .low }

theorem outputsSound_reset : State.reset.OutputsSound := by
  have hout : ∀ l, State.reset.lines.outputs.get l = Output.reset := fun l => by simp [State.reset]
  constructor <;> simp [hout, Output.reset]

/-- Settles O2: the reset at the end of the hard reset is `resetTo`, and the reset state is sound block by block. -/
theorem powerOnResetLeavesTheResetState : Obligations.PowerOnResetLeavesTheResetState := by
  refine ⟨fun s => ⟨beginHardReset .power s, rfl, ?reset⟩, Tests.queueSound_of_ok (by decide), ?link, storeSound_reset,
    Tests.ownershipSound_of_ok (by decide +kernel), outputsSound_reset, ?tasks, ?frames, ?conditioners, ?events⟩
  case reset =>
    obtain ⟨hreset, hpending⟩ := beginHardReset_power s
    refine congrArg Host.Outcome.next ?_
    rw [endHardReset, hreset, hpending]
    rfl
  case link => constructor <;> simp [State.reset, Receiver.Sound, Link.ResetOkOnItsWay]
  case tasks =>
    intro k t h
    rw [task?_reset] at h
    cases h
  case frames => constructor <;> simp [State.reset, Input.reset, Interpreter.held]
  case conditioners => simp [State.ConditionersSound, State.reset, Input.reset]
  case events => constructor <;> simp [State.reset]

/-- Settles O32: RSTN in a hard reset apart, the beginning of a hard reset is one state. -/
theorem hardResetCutsTheLinkAndDrivesOutputsLow : Obligations.HardResetCutsTheLinkAndDrivesOutputsLow := by
  intro s cause
  change Host.Outcome.next (beginHardReset cause s) = _
  congr 1
  refine if_congr ?_ rfl rfl
  cases s.inReset <;> simp

/-- What `resetTo` leaves, block by block. -/
theorem resetTo_sets (pending : List Instr) (cause : ResetCause) (straps : Straps) :
    let t := resetTo pending cause straps
    t.pending = pending ∧ t.inReset = none ∧ t.events = [] ∧
      (∀ k, t.task? k = none ∧ t.tasks.updates.get k = none) ∧
      (∀ l, (t.lines.inputs.get l).polarity = .activeHigh ∧ (t.lines.inputs.get l).filter = 0 ∧
        (t.lines.inputs.get l).candidate = none ∧ (t.lines.inputs.get l).claims = []) ∧
      (∀ l, t.lines.outputs.get l = { idle := .low, owner := .none, level := .low, markEnd := none }) ∧
      (∀ p, t.programs.get p = { state := .empty, segments := [], refCount := 0 }) := by
  simp [resetTo, State.task?, Input.reset, Output.reset, Program.reset]

/-- Settles O33: at their moments both resets are `resetTo`, and at no other do they anything. -/
theorem resetsSetEveryBlock : Obligations.ResetsSetEveryBlock := by
  intro s c straps cause
  refine ⟨fun h => ⟨resetTo s.pending cause straps, ?exec, ?blocks⟩, fun h => ?outOfReset, fun h => ?notSending⟩
  case exec =>
    rcases h with ⟨rfl, ⟨h, rfl⟩ | ⟨h, rfl⟩⟩ | ⟨rfl, rfl, x, h, hx⟩
    · exact congrArg Host.Outcome.next (by simp [endHardReset, h, resetCauseOf])
    · exact congrArg Host.Outcome.next (by simp [endHardReset, h, resetCauseOf])
    · exact congrArg Host.Outcome.next (by simp [fullResetEvent, h, hx])
  case blocks =>
    obtain ⟨h1, h2, h3, h4, h5, h6, h7⟩ := resetTo_sets s.pending cause straps
    exact ⟨h1, h2, h3, h4, h5, h6, rfl, rfl, h7, rfl, rfl⟩
  case outOfReset => exact congrArg Host.Outcome.next (by simp [endHardReset, h])
  case notSending =>
    refine congrArg Host.Outcome.next ?_
    unfold fullResetEvent
    split
    · next x hx => simp [h x hx]
    · rfl

/-! ### The receiver (R176 to R181) -/

theorem exec_rxByte (hs : s.inReset = none) (b : Byte) :
    exec (.rxByte b) s = .next { s with link := s.link.take b } :=
  congrArg Host.Outcome.next (by simp [receiveByte, hs])

theorem admitFrame_eq (l : Link) (f : Frame) :
    l.admitFrame f =
      if l.requests.length < 4 then { l with requests := l.requests ++ [f] } else l.noticed (responseTo f .busy []) := by
  by_cases h : l.requests.length < 4
  · rw [Link.admitFrame, if_pos (hasPlace_iff.2 h), if_pos h]
  · rw [Link.admitFrame, if_neg (mt hasPlace_iff.1 h), if_neg h, offerOrDrop_eq_noticed]
    rfl

theorem takeLen_eq (l : Link) (b : Byte) :
    l.takeLen b =
      if b.toNat ≤ 120 then { l with receiver := .body b.toNat [] (crcOf [b]) }
      else
        Link.noticed { l with receiver := .hunting, oversizeFrames := min 65535 (l.oversizeFrames + 1) }
          { type := 0xC0, tag := 0x00, payload := [0x02], endsInFullReset := false } := by
  simp only [Link.takeLen, offerOrDrop_eq_noticed, sat16_eq]
  rfl

theorem judge_eq (l : Link) (len : Nat) (bytes : List Byte) (crc : BitVec 16) (b : Byte) :
    l.judge len bytes crc b =
      if crc ≠ bytes.getD (len + 2) 0 ++ b then
        Link.noticed { l with receiver := .hunting, crcErrors := min 65535 (l.crcErrors + 1) }
          { type := 0xC0, tag := 0x00, payload := [0x01], endsInFullReset := false }
      else { l with receiver := .hunting }.admitFrame (frameOf len bytes) := by
  simp only [Link.judge, offerOrDrop_eq_noticed, sat16_eq, byteAt, ne_eq, ite_not]
  rfl

theorem abandon_eq (l : Link) :
    l.abandon =
      if l.receiver = .hunting then l
      else { l with receiver := .hunting, abandonedFrames := min 65535 (l.abandonedFrames + 1) } := by
  unfold Link.abandon
  split
  next h => rw [if_pos h]
  next h => rw [if_neg (by simp [h]), sat16_eq]
  next h => rw [if_neg (by simp [h]), sat16_eq]

section
variable {l : Link} {b : Byte}

theorem take_hunting (h : l.receiver = .hunting) :
    l.take b = if b = 0x5A then { l with receiver := .length } else l := by
  simp only [Link.take, h]
  rfl

theorem take_length (h : l.receiver = .length) : l.take b = l.takeLen b := by
  simp only [Link.take, h]

theorem take_body {len : Nat} {bytes : List Byte} {crc : BitVec 16} (h : l.receiver = .body len bytes crc) :
    l.take b = l.takeBody len bytes crc b := by
  simp only [Link.take, h]

end

/-- Settles O29: the receiver by its phase, a body byte by its place in the frame, and the judgement by the CRC. -/
theorem receiverTakesEachByteByItsPhase : Obligations.ReceiverTakesEachByteByItsPhase := by
  refine ⟨fun s b hs => ?byte, fun s hs => ?abandoned, fun s b hs => ?reset⟩
  case byte =>
    rw [exec_rxByte hs]
    congr 2
    cases h : s.link.receiver with
    | hunting => exact take_hunting h
    | length => exact (take_length h).trans (takeLen_eq s.link b)
    | body len bytes crc =>
      rw [take_body h, Link.takeBody]
      refine if_congr Iff.rfl rfl (if_congr Iff.rfl rfl ?_)
      rw [judge_eq, admitFrame_eq]
      exact if_congr Iff.rfl rfl (if_congr Iff.rfl rfl rfl)
  case abandoned => exact congrArg Host.Outcome.next (by simp [abandonFrame, hs, abandon_eq])
  case reset =>
    have hsome : s.inReset.isSome = true := Option.isSome_iff_ne_none.2 hs
    exact ⟨congrArg Host.Outcome.next (by simp [receiveByte, hsome]), congrArg Host.Outcome.next (by simp [abandonFrame, hsome])⟩

/-! ### The held response (R185) -/

/-- Settles O30: the held response by the interpreter's state, where a place is free. -/
theorem heldResponseTakesAFreePlace : Obligations.HeldResponseTakesAFreePlace := by
  intro s
  refine ⟨fun r hs hplace h => ?waiting, fun r hs hplace h => ?stopped, fun h => ?nothing⟩
  case waiting => exact congrArg Host.Outcome.next (by simp [placeResponse, hs, Link.placeHeld, hasPlace_iff.2 hplace, h])
  case stopped => exact congrArg Host.Outcome.next (by simp [placeResponse, hs, Link.placeHeld, hasPlace_iff.2 hplace, h])
  case nothing =>
    refine congrArg Host.Outcome.next ?_
    unfold placeResponse
    split
    next => rfl
    next hs =>
      have hsame : s.link.placeHeld = s.link := by
        unfold Link.placeHeld
        split
        next hplace =>
          have hheld : s.link.interpreter.held = none := by
            rcases h with h | h | h
            · exact absurd (Option.isSome_iff_ne_none.2 h) hs
            · exact absurd (hasPlace_iff.1 hplace) (Nat.not_lt.2 h)
            · exact h
          split
          next => rfl
          next h => simp [h, Interpreter.held] at hheld
          next h => simp [h, Interpreter.held] at hheld
          next => rfl
        next => rfl
      rw [hsame]

/-! ### The arbiter (R164 to R166, R186, R187) -/

/-- The arbiter chooses at a frame boundary and from idle, with nothing in transmission. -/
theorem exec_arbiter
    (h : (c = .idleArbiterChoice ∧ s.inReset = none ∧ s.link.transmission = none) ∨
      (c = .frameBoundary ∧ ∃ x, s.link.transmission = some x ∧ x.endsInFullReset = false)) :
    exec c s = .next (arbitrate s.endFrame) := by
  rcases h with ⟨rfl, hs, ht⟩ | ⟨rfl, x, hx, hend⟩
  · rw [endFrame_of_none ht]
    exact congrArg Host.Outcome.next (by simp [atIdle, hs, ht])
  · exact congrArg Host.Outcome.next (by simp [atFrameBoundary, hx, hend])

theorem arbitrate_response {r : OutFrame} {rest : List OutFrame} (h : s.link.responses = r :: rest) :
    arbitrate s = { s with link := { s.link with responses := rest, transmission := some r.transmission } } := by
  simp [arbitrate, h]

theorem reportEligible_iff :
    s.reportEligible = true ↔
      (∃ w, s.reports.session = some w ∧ s.reports.sentCount < w) ∧ s.link.interpreter.held = none := by
  have hcredit : s.reports.hasCredit = true ↔ ∃ w, s.reports.session = some w ∧ s.reports.sentCount < w := by
    unfold ReportQueue.hasCredit
    split
    next w h => simp [h]
    next h => simp [h]
  simp [State.reportEligible, hcredit]

theorem arbitrate_report {e : Entry} {entries : List Entry} (h : s.link.responses = []) (he : s.reportEligible = true)
    (hb : beginOldest s.reports.entries = some (e, entries)) :
    arbitrate s =
      { s with
        reports := { s.reports with entries := entries }
        link := { s.link with transmission := some e.transmission } } := by
  simp [arbitrate, h, he, hb]

theorem arbitrate_idle (h : s.link.responses = [])
    (hn : s.reportEligible = true → beginOldest s.reports.entries = none) : arbitrate s = s := by
  unfold arbitrate
  rw [h]
  by_cases he : s.reportEligible = true
  · simp [he, hn he]
  · simp [he]

theorem beginOldest_eq_none {entries : List Entry} (h : ∀ x ∈ entries, x.delivery = .sent) :
    beginOldest entries = none := by
  cases hb : beginOldest entries with
  | none => rfl
  | some r =>
    obtain ⟨sent, e, pending, rfl, -, he, -⟩ := beginOldest_eq_some.1 (show beginOldest entries = some (r.1, r.2) from hb)
    have hsent : e.isSent = true := (Entry.isSent_iff e).2 (h e (by simp))
    rw [hsent] at he
    cases he

/-- Settles O31: a choice is `arbitrate` with nothing in transmission, told by the response queue and the report queue. -/
theorem arbiterSendsResponsesThenReports : Obligations.ArbiterSendsResponsesThenReports := by
  refine ⟨fun c s h => ?_, fun s => ⟨fun h => ?_, fun h => ?_⟩⟩
  · rw [exec_arbiter h]
    refine ⟨fun r rest hr => ?response, fun w sent e pending hr hheld hw hcredit hq hsent he e' he' => ?report,
      fun hr hnone => ?idle⟩
    case response =>
      rw [arbitrate_response (s := s.endFrame) hr, OutFrame.transmission, frameBytes_eq]
      rfl
    case report =>
      have heligible : s.endFrame.reportEligible = true := reportEligible_iff.2 ⟨⟨w, hw, hcredit⟩, hheld⟩
      have hbegun : e' = e.begun := by rw [he']; rfl
      have hbegin : beginOldest s.endFrame.reports.entries = some (e', sent ++ e' :: pending) :=
        beginOldest_eq_some.2 ⟨sent, e, pending, hq, fun x hx => (Entry.isSent_iff x).2 (hsent x hx),
          by simp [Entry.isSent, he], hbegun, by rw [hbegun]⟩
      rw [arbitrate_report (s := s.endFrame) hr heligible hbegin, Entry.transmission, frameBytes_eq, record_eq]
      rfl
    case idle =>
      rw [arbitrate_idle (s := s.endFrame) hr]
      · rfl
      · intro heligible
        obtain ⟨⟨w, hw, hcredit⟩, hheld⟩ := reportEligible_iff.1 heligible
        rcases hnone with h | h | ⟨w', hw', hle⟩ | h
        · exact absurd hheld h
        · exact absurd (hw.symm.trans h) (by simp)
        · obtain rfl : w = w' := Option.some.inj (hw.symm.trans hw')
          exact absurd hcredit (Nat.not_lt.2 hle)
        · exact beginOldest_eq_none h
  · refine congrArg Host.Outcome.next ?_
    rw [atIdle, if_pos]
    simpa [Option.isSome_iff_ne_none] using h
  · refine congrArg Host.Outcome.next ?_
    rcases h with h | ⟨x, hx, hend⟩
    · simp [atFrameBoundary, h]
    · simp [atFrameBoundary, hx, hend]

/-! ### The end of a MARK pulse (R44) -/

/-- Settles O36: the pulse ends where its end time is device time. -/
theorem markPulseEndsAtItsEndTime : Obligations.MarkPulseEndsAtItsEndTime := by
  intro s l
  refine ⟨fun hs h => ?ends, fun h => ?stays⟩
  case ends =>
    refine congrArg Host.Outcome.next ?_
    rw [endMark, if_pos (by simp [hs, h])]
    rfl
  case stays =>
    refine congrArg Host.Outcome.next ?_
    rw [endMark, if_neg]
    rcases h with h | h
    · simp [h]
    · simp [h]

end Sys2Proof.Machine
end

section
/-! A request's turns do not see the link: the queue's turns, and the events of the requests on slots, commute with a change
of the link, so that a request taken from its queue is served as if the queue still held it (R183). -/

namespace Sys2Proof.Machine

variable {s : State} {l : Link} {c : Instr} {q : Request} {f : Frame} {rest : List Frame}

/-- The state with another link. -/
def State.relink (s : State) (l : Link) : State := { s with link := l }

/-- Taking a request changes the link alone. -/
theorem popRequest_eq_relink (s : State) : s.popRequest = s.relink { s.link with requests := s.link.requests.tail } := rfl

@[simp] theorem State.relink_link : (s.relink l).link = l := rfl

@[simp] theorem State.relink_self : s.relink s.link = s := rfl

/-! ### The queue's turns -/

theorem takeOffer_relink (l : Link) (x : State × OpenEvent) (o : Offer) :
    takeOffer (x.1.relink l, x.2) o = ((takeOffer x o).1.relink l, (takeOffer x o).2) := rfl

theorem foldl_takeOffer_relink (l : Link) (offers : List Offer) (x : State × OpenEvent) :
    offers.foldl takeOffer (x.1.relink l, x.2) =
      ((offers.foldl takeOffer x).1.relink l, (offers.foldl takeOffer x).2) := by
  induction offers generalizing x with
  | nil => rfl
  | cons o offers ih => rw [List.foldl_cons, takeOffer_relink, ih, List.foldl_cons]

theorem faultLost_relink (l : Link) (x : State × List Offer) (k : Slot) :
    faultLost (x.1.relink l, x.2) k = ((faultLost x k).1.relink l, (faultLost x k).2) := by
  have htask : (x.1.relink l).task? k = x.1.task? k := rfl
  rw [faultLost, htask, faultLost]
  cases x.1.task? k with
  | none => rfl
  | some t =>
    dsimp only
    split <;> rfl

theorem foldl_faultLost_relink (l : Link) (slots : List Slot) (x : State × List Offer) :
    slots.foldl faultLost (x.1.relink l, x.2) =
      ((slots.foldl faultLost x).1.relink l, (slots.foldl faultLost x).2) := by
  induction slots generalizing x with
  | nil => rfl
  | cons k slots ih => rw [List.foldl_cons, faultLost_relink, ih, List.foldl_cons]

theorem faultAll_relink (s : State) (l : Link) (lost : List Slot) :
    (s.relink l).faultAll lost = ((s.faultAll lost).1.relink l, (s.faultAll lost).2) :=
  foldl_faultLost_relink l lost (s, [])

theorem settleEvent_relink (s : State) (l : Link) (e : OpenEvent) :
    (s.relink l).settleEvent e = (s.settleEvent e).relink l := by
  have htaken := foldl_takeOffer_relink l e.offers (s, e)
  unfold State.settleEvent
  simp only [htaken, faultAll_relink]
  exact congrArg Prod.fst (foldl_takeOffer_relink l _ (_, _))

theorem foldl_settleEvent_relink (l : Link) (events : List OpenEvent) (s : State) :
    events.foldl State.settleEvent (s.relink l) = (events.foldl State.settleEvent s).relink l := by
  induction events generalizing s with
  | nil => rfl
  | cons e events ih => rw [List.foldl_cons, settleEvent_relink, ih, List.foldl_cons]

theorem settle_relink (s : State) (l : Link) : (s.relink l).settle = s.settle.relink l :=
  foldl_settleEvent_relink l s.events { s with events := [] }

theorem endEventsOf_relink (s : State) (l : Link) (slots : List Slot) :
    (s.relink l).endEventsOf slots = (s.endEventsOf slots).relink l :=
  foldl_settleEvent_relink l _ { s with events := s.events.filter fun e => !slots.any e.concerns }

theorem readyFor_relink (s : State) (l : Link) (slots : List Slot) :
    (s.relink l).readyFor slots = (s.readyFor slots).relink l := by
  have hundecided : (s.relink l).undecided = s.undecided := rfl
  unfold State.readyFor
  rw [hundecided, settle_relink]
  split <;> rfl

theorem clearFor_relink (s : State) (l : Link) (slots : List Slot) :
    (s.relink l).clearFor slots = (s.clearFor slots).relink l := by
  have hunfinished : (s.relink l).unfinished = s.unfinished := rfl
  unfold State.clearFor
  rw [hunfinished, settle_relink]
  split <;> rfl

theorem takeTurn_relink (s : State) (l : Link) (j : Slot) : (s.relink l).takeTurn j = (s.takeTurn j).relink l := by
  have hevents : (s.relink l).events = s.events := rfl
  unfold State.takeTurn
  rw [hevents]
  split
  · rfl
  · next before e after _ =>
    cases e.next? j with
    | none => rfl
    | some x =>
      simp only [takeOffer_relink l (s, x.2), faultAll_relink]
      split <;> rfl

theorem takeTurns_relink (s : State) (l : Link) (turns : Turns) :
    (s.relink l).takeTurns turns = (s.takeTurns turns).relink l := by
  have hfold : turns.order.foldl State.takeTurn (s.relink l) = (turns.order.foldl State.takeTurn s).relink l :=
    List.foldl_hom (State.relink · l) fun s j => takeTurn_relink s l j
  simp only [State.takeTurns, hfold, settle_relink]
  split <;> rfl

/-! ### The events of the requests on slots -/

theorem driveWave_relink (s : State) (l : Link) (e : Engine) : (s.relink l).driveWave e = (s.driveWave e).relink l := by
  have hsegments : (s.relink l).segments = s.segments := rfl
  cases e with
  | pulseTrain p r =>
    unfold State.driveWave
    rw [hsegments]
    dsimp only
    split <;> rfl
  | eventCount p r => rfl
  | span p r => rfl
  | windowCount p r => rfl
  | position p r => rfl
  | deadline p r => rfl

theorem beginRun_relink (s : State) (l : Link) (k : Slot) (level : InLine → Cond) (now : Time) :
    (s.relink l).beginRun k level now = (s.beginRun k level now).relink l := by
  have htask : (s.relink l).task? k = s.task? k := rfl
  unfold State.beginRun
  rw [htask]
  cases s.task? k with
  | none => rfl
  | some t => exact driveWave_relink (s.setTask k (t.begun s.segments level now)) l _

theorem foldl_beginRun_relink (l : Link) (now : Time) (slots : List Slot) (s : State) :
    slots.foldl (fun s k => s.beginRun k s.levelNow now) (s.relink l) =
      (slots.foldl (fun s k => s.beginRun k s.levelNow now) s).relink l :=
  List.foldl_hom (State.relink · l) fun s k => beginRun_relink s l k s.levelNow now

theorem finish_relink (w : Work) (l : Link) (now : Time) :
    (w.on (State.relink · l)).finish now = (w.finish now).relink l := by
  obtain ⟨st, own, free⟩ := w
  cases own with
  | nil => cases free <;> rfl
  | cons o own => rfl

theorem offerStarted_relink (w : Work) (l : Link) (k : Slot) (cause : StartCause) :
    (w.on (State.relink · l)).offerStarted k cause = (w.offerStarted k cause).on (State.relink · l) := by
  have htask : (w.on (State.relink · l)).st.task? k = w.st.task? k := rfl
  unfold Work.offerStarted
  rw [htask]
  cases w.st.task? k with
  | none => rfl
  | some t =>
    dsimp only
    split <;> rfl

theorem startSlots_relink (slots : List Slot) (cause : StartCause) (s : State) (l : Link) :
    startSlots slots cause (s.relink l) = (startSlots slots cause s).relink l := by
  have hbegun := foldl_beginRun_relink l s.timebase.time slots s
  have hoffers : ∀ w : Work, slots.foldl (fun w k => w.offerStarted k cause) (w.on (State.relink · l)) =
      (slots.foldl (fun w k => w.offerStarted k cause) w).on (State.relink · l) := fun w =>
    List.foldl_hom (Work.on · (State.relink · l)) fun w k => offerStarted_relink w l k cause
  have hwork : (Work.of (s.relink l)).on (fun s' => slots.foldl (fun s' k => s'.beginRun k s'.levelNow s.timebase.time) s') =
      ((Work.of s).on fun s' => slots.foldl (fun s' k => s'.beginRun k s'.levelNow s.timebase.time) s').on
        (State.relink · l) := congrArg (Work.mk · [] []) hbegun
  calc
    startSlots slots cause (s.relink l)
    _ = (slots.foldl (fun w k => w.offerStarted k cause) ((Work.of (s.relink l)).on
          fun s' => slots.foldl (fun s' k => s'.beginRun k s'.levelNow s.timebase.time) s')).finish s.timebase.time := rfl
    _ = (startSlots slots cause s).relink l := by rw [hwork, hoffers, finish_relink]; rfl

theorem endRun_relink (k : Slot) (t : Task) (ending : Ending) (s : State) (l : Link) :
    endRun k t ending (s.relink l) = (endRun k t ending s).relink l := by
  have hidle : ∀ s : State, (s.relink l).idleWave t.engine = (s.idleWave t.engine).relink l := fun s => by
    cases t.engine <;> rfl
  have hwork : (Work.of (s.relink l)).on (fun s => (s.setTask k (t.left .done)).idleWave t.engine) =
      ((Work.of s).on fun s => (s.setTask k (t.left .done)).idleWave t.engine).on (State.relink · l) :=
    congrArg (Work.mk · [] []) (hidle (s.setTask k (t.left .done)))
  unfold endRun
  rw [hwork]
  exact finish_relink
    (((Work.of s).on fun s => (s.setTask k (t.left .done)).idleWave t.engine).offer k
      (.taskDone ending t.engine.principal t.runCount t.overrunCount)) l s.timebase.time

theorem requestEvent_relink {event : State → State} (hevent : ∀ s, event (s.relink l) = (event s).relink l)
    (slots : List Slot) : (s.relink l).requestEvent slots event = (s.requestEvent slots event).relink l := by
  rw [State.requestEvent, clearFor_relink, hevent, endEventsOf_relink]
  rfl

/-! ### A request taken from its queue -/

theorem relink_popRequest {e : State} (h : e.link = s.link) :
    e.relink { s.link with requests := s.link.requests.tail } = e.popRequest := by
  rw [← h]
  rfl

theorem settle_popRequest (s : State) : s.popRequest.settle = s.settle.popRequest := by
  rw [popRequest_eq_relink, settle_relink, relink_popRequest s.settle_outside.link]

theorem readyFor_popRequest (s : State) (slots : List Slot) :
    s.popRequest.readyFor slots = (s.readyFor slots).popRequest := by
  rw [popRequest_eq_relink, readyFor_relink, relink_popRequest (s.readyFor_outside slots).link]

theorem requestEvent_popRequest {event : State → State} (hevent : ∀ s l, event (s.relink l) = (event s).relink l)
    (slots : List Slot) (hlink : (s.requestEvent slots event).link = s.link) :
    s.popRequest.requestEvent slots event = (s.requestEvent slots event).popRequest := by
  rw [popRequest_eq_relink, requestEvent_relink (hevent · _), relink_popRequest hlink]

end Sys2Proof.Machine
end

section
/-! The requests in general, and those that read: which row takes a frame, what is refused, and the data of the requests that
change nothing (R27, R28, R46, R54, R69, R183, R189, R190, R192, R196). -/

namespace Sys2Proof.Machine

variable {s e : State} {c : Instr} {q : Request} {f : Frame} {rest : List Frame} {type : Byte} {p : List Byte}
  {b : Byte} {k : Slot} {serve : Frame → State → State × Reply}

/-! ### Which request a frame is (R196) -/

/-- The TYPE of a row of the table. -/
def Request.code : Request → Nat
  | .getIdentity => 0x01
  | .getLinkStatus => 0x02
  | .resetDeviceFull => 0x03
  | .resetDeviceTasks => 0x03
  | .resetDevice => 0x03
  | .openSessionClean => 0x08
  | .openSessionResume => 0x08
  | .openSession => 0x08
  | .closeSession => 0x09
  | .ackReports => 0x0A
  | .resendReports => 0x0B
  | .setTick => 0x10
  | .getTime => 0x11
  | .configInput => 0x14
  | .configOutput => 0x15
  | .setOutputActive => 0x16
  | .setOutputIdle => 0x16
  | .setOutputRelease => 0x16
  | .setOutput => 0x16
  | .getLines => 0x17
  | .loadProgram => 0x1C
  | .appendProgram => 0x1D
  | .eraseProgram => 0x1E
  | .getProgram => 0x1F
  | .defineTask => 0x20
  | .deleteTask => 0x21
  | .armTask => 0x22
  | .disarmTask => 0x23
  | .startTask => 0x24
  | .startGroup => 0x25
  | .stopTaskGraceful => 0x26
  | .stopTaskAbort => 0x26
  | .stopTask => 0x26
  | .queryTask => 0x27
  | .readCount => 0x28
  | .setPosition => 0x29
  | .unknown => 0x00

theorem code_resetRequest (p : List Byte) : (resetRequest p).code = 0x03 := by
  unfold resetRequest
  split_ifs <;> rfl

theorem code_openRequest (p : List Byte) : (openRequest p).code = 0x08 := by
  unfold openRequest
  split_ifs <;> rfl

theorem code_outputRequest (p : List Byte) : (outputRequest p).code = 0x16 := by
  unfold outputRequest
  split_ifs <;> rfl

theorem code_stopRequest (p : List Byte) : (stopRequest p).code = 0x26 := by
  unfold stopRequest
  split_ifs <;> rfl

/-- The row that takes a frame has the frame's TYPE, where it is an assigned code. -/
theorem code_requestOf (type : Byte) (p : List Byte) :
    requestOf type p = .unknown ∨ type.toNat = (requestOf type p).code := by
  unfold requestOf
  split
  case h_3 h => exact .inr (h.trans (code_resetRequest p).symm)
  case h_4 h => exact .inr (h.trans (code_openRequest p).symm)
  case h_12 h => exact .inr (h.trans (code_outputRequest p).symm)
  case h_24 h => exact .inr (h.trans (code_stopRequest p).symm)
  case h_28 => exact .inl rfl
  all_goals exact .inr ‹_›

theorem type_of_requestOf (h : requestOf type p = q) (hq : q ≠ .unknown) : type.toNat = q.code := by
  rcases code_requestOf type p with hu | hc
  · exact absurd (h.symm.trans hu) hq
  · rwa [h] at hc

/-- A row that takes every payload of its TYPE. -/
theorem requestOf_iff_type {code : Byte} (hq : q ≠ .unknown) (hcode : code.toNat = q.code)
    (hrow : requestOf code p = q) : requestOf type p = q ↔ type = code := by
  refine ⟨fun h => BitVec.eq_of_toNat_eq ((type_of_requestOf h hq).trans hcode.symm), ?_⟩
  rintro rfl
  exact hrow

/-- A row that takes some payloads of its TYPE. -/
theorem requestOf_iff {code : Byte} {P : Prop} (hq : q ≠ .unknown) (hcode : code.toNat = q.code)
    (hrow : requestOf code p = q ↔ P) : requestOf type p = q ↔ type = code ∧ P := by
  constructor
  · intro h
    obtain rfl : type = code := BitVec.eq_of_toNat_eq ((type_of_requestOf h hq).trans hcode.symm)
    exact ⟨rfl, hrow.1 h⟩
  · rintro ⟨rfl, h⟩
    exact hrow.2 h

theorem length_one_iff {x : Byte} : p = [x] ↔ p.length = 1 ∧ byteAt p 0 = x := by
  constructor
  · rintro rfl
    exact ⟨rfl, rfl⟩
  · rintro ⟨hl, hx⟩
    obtain ⟨y, rfl⟩ := List.length_eq_one_iff.1 hl
    exact congrArg (fun z => [z]) hx

theorem length_two_iff {x : Byte} : (∃ w, p = [w, x]) ↔ p.length = 2 ∧ byteAt p 1 = x := by
  constructor
  · rintro ⟨w, rfl⟩
    exact ⟨rfl, rfl⟩
  · rintro ⟨hl, hx⟩
    obtain ⟨w, y, rfl⟩ := List.length_eq_two.1 hl
    exact ⟨w, congrArg (fun z => [w, z]) hx⟩

theorem forall_ne_pair_iff {x : Byte} : (∀ w, p ≠ [w, x]) ↔ ¬(p.length = 2 ∧ byteAt p 1 = x) := by
  rw [← length_two_iff, not_exists]

theorem resetRequest_iff :
    (resetRequest p = .resetDeviceFull ↔ p = [0x00]) ∧ (resetRequest p = .resetDeviceTasks ↔ p = [0x01]) ∧
      (resetRequest p = .resetDevice ↔ p ≠ [0x00] ∧ p ≠ [0x01]) := by
  simp only [ne_eq, length_one_iff, resetRequest]
  split_ifs <;> simp_all

theorem openRequest_iff :
    (openRequest p = .openSessionClean ↔ ∃ w, p = [w, 0x00]) ∧ (openRequest p = .openSessionResume ↔ ∃ w, p = [w, 0x01]) ∧
      (openRequest p = .openSession ↔ ∀ w, p ≠ [w, 0x00] ∧ p ≠ [w, 0x01]) := by
  simp only [forall_and, forall_ne_pair_iff, length_two_iff, openRequest]
  split_ifs <;> simp_all

theorem outputRequest_iff :
    (outputRequest p = .setOutputIdle ↔ ∃ l, p = [l, 0x00]) ∧ (outputRequest p = .setOutputActive ↔ ∃ l, p = [l, 0x01]) ∧
      (outputRequest p = .setOutputRelease ↔ ∃ l, p = [l, 0x02]) ∧
      (outputRequest p = .setOutput ↔ ∀ l, p ≠ [l, 0x00] ∧ p ≠ [l, 0x01] ∧ p ≠ [l, 0x02]) := by
  simp only [forall_and, forall_ne_pair_iff, length_two_iff, outputRequest]
  split_ifs <;> simp_all

theorem stopRequest_iff :
    (stopRequest p = .stopTaskGraceful ↔ ∃ k, p = [k, 0x00]) ∧ (stopRequest p = .stopTaskAbort ↔ ∃ k, p = [k, 0x01]) ∧
      (stopRequest p = .stopTask ↔ ∀ k, p ≠ [k, 0x00] ∧ p ≠ [k, 0x01]) := by
  simp only [forall_and, forall_ne_pair_iff, length_two_iff, stopRequest]
  split_ifs <;> simp_all

theorem requestOf_unknown_iff :
    requestOf type p = .unknown ↔
      type.toNat ∉ [0x01, 0x02, 0x03, 0x08, 0x09, 0x0A, 0x0B, 0x10, 0x11, 0x14, 0x15, 0x16, 0x17, 0x1C, 0x1D, 0x1E,
        0x1F, 0x20, 0x21, 0x22, 0x23, 0x24, 0x25, 0x26, 0x27, 0x28, 0x29] := by
  have hne : ∀ q : Request, q.code ≠ 0 → q ≠ .unknown := by
    rintro q hq rfl
    exact hq rfl
  unfold requestOf
  split
  case h_3 h => simp [h, hne (resetRequest p) (by simp [code_resetRequest])]
  case h_4 h => simp [h, hne (openRequest p) (by simp [code_openRequest])]
  case h_12 h => simp [h, hne (outputRequest p) (by simp [code_outputRequest])]
  case h_24 h => simp [h, hne (stopRequest p) (by simp [code_stopRequest])]
  case h_28 => simp_all
  all_goals simp [*]

/-- Settles O8: a row that is no refusal row has its TYPE (`code_requestOf`), and the four TYPEs with several rows are told by
their payload. -/
theorem eachCodeIsItsRequest : Obligations.EachCodeIsItsRequest := by
  intro type p
  obtain ⟨hfull, htasks, hreset⟩ := resetRequest_iff (p := p)
  obtain ⟨hclean, hresume, hopen⟩ := openRequest_iff (p := p)
  obtain ⟨hidle, hactive, hrelease, houtput⟩ := outputRequest_iff (p := p)
  obtain ⟨hgraceful, habort, hstop⟩ := stopRequest_iff (p := p)
  refine ⟨?_, requestOf_iff (by simp) rfl hfull, requestOf_iff (by simp) rfl htasks, requestOf_iff (by simp) rfl hreset,
    requestOf_iff (by simp) rfl hclean, requestOf_iff (by simp) rfl hresume, requestOf_iff (by simp) rfl hopen,
    requestOf_iff (by simp) rfl hidle, requestOf_iff (by simp) rfl hactive, requestOf_iff (by simp) rfl hrelease,
    requestOf_iff (by simp) rfl houtput, requestOf_iff (by simp) rfl hgraceful, requestOf_iff (by simp) rfl habort,
    requestOf_iff (by simp) rfl hstop, requestOf_unknown_iff⟩
  simp only [List.forall_mem_cons]
  refine ⟨?_, ?_, ?_, ?_, ?_, ?_, ?_, ?_, ?_, ?_, ?_, ?_, ?_, ?_, ?_, ?_, ?_, ?_, ?_, ?_, ?_, ?_, ?_, by simp⟩ <;>
    exact requestOf_iff_type (by simp) rfl rfl

/-! ### Rows that refuse (R183) -/

/-- A row that accepts no value of its byte: BAD_LENGTH, then BAD_PARAM. -/
theorem takeRequest_withLen_refuse {n : Nat} (h : Taking s q f rest) :
    takeRequest q (fun f s => withLen n f s (refuse s .badParam)) s =
      s.answered rest f (if f.payload.length = n then .badParam else .badLength) [] := by
  by_cases hn : f.payload.length = n
  · rw [if_pos hn, takeRequest_refused h (withLen_of_length _ hn)]
  · rw [if_neg hn, takeRequest_refused h (withLen_badLength _ hn)]

/-- Settles O9: the row of no code refuses every frame, and four rows refuse what their other rows do not take. -/
theorem unassignedAndMalformedRequestsAreRefused : Obligations.UnassignedAndMalformedRequestsAreRefused := by
  intro s f rest
  refine ⟨fun h => ⟨congrArg Host.Outcome.next (takeRequest_refused h rfl), requestOf_unknown_iff.1 h.row⟩, fun h => ?_,
    fun h => ?_, fun h => ?_, fun h => ?_⟩ <;>
    exact congrArg Host.Outcome.next (takeRequest_withLen_refuse h)

/-- Settles O11: the OK of the full reset is placed or held, and the interpreter stopped. -/
theorem fullResetRequestStopsTheInterpreter : Obligations.FullResetRequestStopsTheInterpreter := by
  intro s f rest h
  refine congrArg Host.Outcome.next ?_
  simp only [resetDeviceFull, h.next, h.row, if_true, h.pop, Link.stop]
  by_cases hplace : s.link.responses.length < 4
  · rw [if_pos (hasPlace_iff.2 hplace), if_pos hplace]
    rfl
  · rw [if_neg (mt hasPlace_iff.1 hplace), if_neg hplace]
    rfl

/-! ### A request on a slot (R3, R183) -/

theorem onSlot_badParam {more : List Byte} {act : Slot → State → Option Task → State × Reply} (hp : f.payload = b :: more)
    (hb : finOf? 16 b.toNat = none) : onSlot f s act = refuse s .badParam := by
  simp [onSlot, hp, byteAt, slotOf?, hb]

theorem onSlot_of_slot {more : List Byte} {act : Slot → State → Option Task → State × Reply} (hp : f.payload = b :: more)
    (hb : finOf? 16 b.toNat = some k) :
    onSlot f s.popRequest act = act k (s.readyFor [k]).popRequest ((s.readyFor [k]).task? k) := by
  simp [onSlot, hp, byteAt, slotOf?, hb, readyFor_popRequest]

/-- A request on a slot answers a number that is none. -/
theorem takeRequest_badSlot {more : List Byte} {act : Slot → State → Option Task → State × Reply} (h : Taking s q f rest)
    (hserve : serve f s.popRequest = onSlot f s.popRequest act) (hp : f.payload = b :: more)
    (hb : finOf? 16 b.toNat = none) : takeRequest q serve s = s.answered rest f .badParam [] :=
  takeRequest_refused h (hserve.trans (onSlot_badParam hp hb))

/-- A request on a slot is served once no event may still fault the slot's task. -/
theorem takeRequest_onSlot {more : List Byte} {act : Slot → State → Option Task → State × Reply} {r : Reply}
    (h : Taking s q f rest) (hserve : serve f s.popRequest = onSlot f s.popRequest act) (hp : f.payload = b :: more)
    (hb : finOf? 16 b.toNat = some k)
    (hact : act k (s.readyFor [k]).popRequest ((s.readyFor [k]).task? k) = (e.popRequest, r)) (hlink : e.link = s.link) :
    takeRequest q serve s = e.answered rest f r.status r.data :=
  takeRequest_served h hlink (hserve.trans ((onSlot_of_slot hp hb).trans hact))

theorem readyFor_link (s : State) (slots : List Slot) : (s.readyFor slots).link = s.link := (s.readyFor_outside slots).link

/-- A request on a slot whose operand has another length. -/
theorem takeRequest_badLength {n : Nat} {serve : Frame → State → State × Reply} (h : Taking s q f rest)
    (hn : f.payload.length ≠ n) :
    takeRequest q (fun f s => withLen n f s (serve f s)) s = s.answered rest f .badLength [] :=
  takeRequest_refused h (withLen_badLength _ hn)

/-! ### The requests that read -/

theorem length_ne_zero_of_ne (h : f.payload ≠ []) : f.payload.length ≠ 0 := mt List.length_eq_zero_iff.1 h

theorem length_ne_one_of_ne (h : ∀ b, f.payload ≠ [b]) : f.payload.length ≠ 1 := fun hlen =>
  let ⟨b, hb⟩ := List.length_eq_one_iff.1 hlen
  h b hb

theorem length_ne_two_of_ne (h : ∀ a b, f.payload ≠ [a, b]) : f.payload.length ≠ 2 := fun hlen =>
  let ⟨a, b, hab⟩ := List.length_eq_two.1 hlen
  h a b hab

/-- A request without operand that reads. -/
theorem takeRequest_reads {data : State → List Byte} (h : Taking s q f rest) (hdata : data s.popRequest = data s) :
    takeRequest q (fun f s => withLen 0 f s (s, Reply.okWith (data s))) s =
      if f.payload = [] then s.answered rest f .ok (data s) else s.answered rest f .badLength [] := by
  split
  next hp =>
    rw [← hdata]
    exact takeRequest_served (r := Reply.okWith _) h rfl (withLen_of_length _ (by rw [hp]; rfl))
  next hp => exact takeRequest_badLength h (length_ne_zero_of_ne hp)

theorem optField_absent {α : Type} (g : Byte → Option α) : optField g 0xFF = some none := rfl

theorem optField_of_ne {α : Type} {g : Byte → Option α} (h : b ≠ 0xFF) : optField g b = (g b).map some := if_neg h

theorem serveGetLines_of_detail {detail : Option InLine} (hp : f.payload = [b])
    (hb : optField inLineOf? b = some detail) :
    serveGetLines f s.popRequest =
      ((s.readyFor (indices 16)).popRequest, Reply.okWith (linesLayout (s.readyFor (indices 16)).lines detail)) := by
  rw [serveGetLines, withLen_of_length _ (by rw [hp]; rfl), hp, byteAt, List.getD_cons_zero, hb]
  simp only [readyFor_popRequest, linesData_eq, State.popRequest_lines]

/-- GET_LINES by its operand: none of the inputs, one of them, or no number of any (R46). -/
theorem takeRequest_getLines (h : Taking s .getLines f rest) (hp : f.payload = [b]) :
    takeRequest .getLines serveGetLines s =
      if b = 0xFF then
        (s.readyFor (indices 16)).answered rest f .ok (linesLayout (s.readyFor (indices 16)).lines none)
      else
        match finOf? 12 b.toNat with
        | some l =>
          (s.readyFor (indices 16)).answered rest f .ok (linesLayout (s.readyFor (indices 16)).lines (some l))
        | none => s.answered rest f .badParam [] := by
  have hserve (detail : Option InLine) (hb : optField inLineOf? b = some detail) :=
    takeRequest_served (r := Reply.okWith _) h (readyFor_link s _) (serveGetLines_of_detail hp hb)
  split
  next hb => exact hserve none (by rw [hb, optField_absent])
  next hb =>
    split
    next l hl => exact hserve (some l) (by rw [optField_of_ne hb, inLineOf?, hl]; rfl)
    next hl =>
      refine takeRequest_refused h ?_
      rw [serveGetLines, withLen_of_length _ (by rw [hp]; rfl), hp, byteAt, List.getD_cons_zero, optField_of_ne hb,
        inLineOf?, hl]
      rfl

theorem serveGetProgram_of_payload {first : Byte} (hp : f.payload = [b, first]) :
    serveGetProgram f s =
      (match progOf? b with
       | none => refuse s .badParam
       | some k =>
         if 127 < first.toNat then refuse s .badParam
         else (s, Reply.okWith (programLayout (s.programs.get k) first.toNat))) := by
  rw [serveGetProgram, withLen_of_length _ (by rw [hp]; rfl), hp]
  simp only [byteAt, List.getD_cons_zero, List.getD_cons_succ, programData_eq] <;> rfl

/-- A request on a slot that reads. -/
theorem takeRequest_readsSlot {data : Slot → State → Option Task → List Byte} (h : Taking s q f rest)
    (hdata : ∀ k e t, data k (State.popRequest e) t = data k e t) (hp : f.payload = [b]) :
    takeRequest q (fun f s => withLen 1 f s (onSlot f s fun k s t => (s, Reply.okWith (data k s t)))) s =
      match finOf? 16 b.toNat with
      | some k => (s.readyFor [k]).answered rest f .ok (data k (s.readyFor [k]) ((s.readyFor [k]).task? k))
      | none => s.answered rest f .badParam [] := by
  have hlen : f.payload.length = 1 := by rw [hp]; rfl
  split
  next k hb =>
    rw [← hdata]
    exact takeRequest_onSlot (r := Reply.okWith _) h (withLen_of_length _ hlen) hp hb rfl (readyFor_link s [k])
  next hb => exact takeRequest_badSlot h (withLen_of_length _ hlen) hp hb

theorem strictFlag_of (h : b = 0x00 ∨ b = 0x01) : strictFlag b = some (decide (b = 0x01)) := by
  rcases h with rfl | rfl <;> rfl

theorem strictFlag_eq_none (h : ¬(b = 0x00 ∨ b = 0x01)) : strictFlag b = none := by
  obtain ⟨h0, h1⟩ := not_or.1 h
  rw [strictFlag, if_neg h0, if_neg h1]

theorem serveGetLinkStatus_of_flag {clear : Bool} (hp : f.payload = [b]) (hb : strictFlag b = some clear) :
    serveGetLinkStatus f s =
      (if clear then { s with link := s.link.clearCounters } else s,
        Reply.okWith (linkStatusData s.link s.reports.session)) := by
  rw [serveGetLinkStatus, withLen_of_length _ (by rw [hp]; rfl), hp, byteAt, List.getD_cons_zero, hb]

/-- GET_LINK_STATUS by its flag (R189). -/
theorem takeRequest_getLinkStatus (h : Taking s .getLinkStatus f rest) (hp : f.payload = [b])
    (hb : b = 0x00 ∨ b = 0x01) :
    takeRequest .getLinkStatus serveGetLinkStatus s =
      State.answered (if b = 0x01 then { s with link := s.link.clearCounters } else s) rest f .ok
        (linkStatusData s.link s.reports.session) := by
  have hserve := serveGetLinkStatus_of_flag (s := s.popRequest) hp (strictFlag_of hb)
  by_cases h1 : b = 0x01
  · rw [if_pos h1]
    rw [if_pos (decide_eq_true h1)] at hserve
    exact takeRequest_served_of_requests (e := { s with link := s.link.clearCounters }) h rfl hserve
  · rw [if_neg h1]
    rw [if_neg (mt of_decide_eq_true h1)] at hserve
    exact takeRequest_served h rfl hserve

/-- Settles O10: each reading request by its operand, its data by the layouts. -/
theorem readRequestsAnswerAndChangeNothing : Obligations.ReadRequestsAnswerAndChangeNothing := by
  intro s f rest
  refine ⟨fun h => ?identity, fun h => ?time, fun h => ?lines, fun h => ?program, fun h => ?query, fun h => ?count,
    fun h => ?status⟩
  case identity =>
    refine congrArg Host.Outcome.next ?_
    rw [← identityData_eq]
    exact takeRequest_reads (data := fun s => identityData s.link) h rfl
  case time =>
    refine congrArg Host.Outcome.next ?_
    rw [← timeData_eq]
    exact takeRequest_reads (data := fun s => timeData s.timebase) h rfl
  case lines =>
    refine congrArg Host.Outcome.next ?_
    split
    next b hp => exact takeRequest_getLines h hp
    next hp => exact takeRequest_badLength h (length_ne_one_of_ne hp)
  case program =>
    refine congrArg Host.Outcome.next ?_
    split
    next b first hp =>
      have hserve := serveGetProgram_of_payload (s := s.popRequest) hp
      split
      next p hb =>
        rw [progOf?, hb] at hserve
        split
        next hfirst => exact takeRequest_refused h (hserve.trans (if_pos hfirst))
        next hfirst => exact takeRequest_served (r := Reply.okWith _) h rfl (hserve.trans (if_neg hfirst))
      next hb =>
        rw [progOf?, hb] at hserve
        exact takeRequest_refused h hserve
    next hp => exact takeRequest_badLength h (length_ne_two_of_ne hp)
  case query =>
    refine congrArg Host.Outcome.next ?_
    split
    next b hp =>
      simp only [← queryData_eq]
      exact takeRequest_readsSlot (data := fun k _ t => queryData k t) h (fun _ _ _ => rfl) hp
    next hp => exact takeRequest_badLength h (length_ne_one_of_ne hp)
  case count =>
    refine congrArg Host.Outcome.next ?_
    split
    next b hp =>
      have hread := takeRequest_readsSlot (data := fun k (e : State) t => countData k e.timebase.time t) h
        (fun _ _ _ => rfl) hp
      simp only [← countData_eq]
      refine hread.trans ?_
      cases finOf? 16 b.toNat with
      | none => rfl
      | some k =>
        dsimp only
        rw [(s.readyFor_outside [k]).blocks.timebase]
    next hp => exact takeRequest_badLength h (length_ne_one_of_ne hp)
  case status =>
    refine congrArg Host.Outcome.next ?_
    split
    next b hp =>
      split
      next hb =>
        refine (takeRequest_getLinkStatus h hp hb).trans ?_
        rw [linkStatusData_eq]
        rfl
      next hb =>
        refine takeRequest_refused h ?_
        rw [serveGetLinkStatus, withLen_of_length _ (by rw [hp]; rfl), hp, byteAt, List.getD_cons_zero,
          strictFlag_eq_none hb]
    next hp => exact takeRequest_badLength h (length_ne_one_of_ne hp)

end Sys2Proof.Machine
end

section
/-! The starts of runs: the WAVE lines they drive, the offers they make, and the state that the starts of a request leave (R10 to
R12, R73, R147). -/

namespace Sys2Proof.Machine

variable {s t u : State} {w : Work} {k j : Slot} {a b : Task} {now : Time} {l : OutLine} {p : TrainParams}
  {level : InLine → Cond} {own free : List Offer} {cause : StartCause} {members : List Slot}

/-! ### Offers that wait -/

@[simp] theorem State.offering_task? (s : State) (now : Time) (own free : List Offer) (j : Slot) :
    (s.offering now own free).task? j = s.task? j := by
  unfold State.offering
  split <;> rfl

@[simp] theorem State.offering_updates (s : State) (now : Time) (own free : List Offer) :
    (s.offering now own free).tasks.updates = s.tasks.updates := by
  unfold State.offering
  split <;> rfl

@[simp] theorem State.offering_lines (s : State) (now : Time) (own free : List Offer) :
    (s.offering now own free).lines = s.lines := by
  unfold State.offering
  split <;> rfl

@[simp] theorem State.offering_reports (s : State) (now : Time) (own free : List Offer) :
    (s.offering now own free).reports = s.reports := by
  unfold State.offering
  split <;> rfl

@[simp] theorem State.offering_link (s : State) (now : Time) (own free : List Offer) :
    (s.offering now own free).link = s.link := by
  unfold State.offering
  split <;> rfl

theorem State.offering_blocks (s : State) (now : Time) (own free : List Offer) :
    OtherBlocksKept s (s.offering now own free) := by
  unfold State.offering
  split <;> exact ⟨rfl, rfl, rfl, rfl, rfl, rfl⟩

/-- An event's offers join the events that stand, with the epoch in force. -/
theorem State.offering_events_congr (hevents : t.events = s.events) (htime : t.timebase = s.timebase) (now : Time)
    (own free : List Offer) : (t.offering now own free).events = (s.offering now own free).events := by
  unfold State.offering
  rw [hevents, htime]
  split
  · exact hevents
  · rfl

theorem OtherBlocksKept.trans (h : OtherBlocksKept s t) (g : OtherBlocksKept t u) : OtherBlocksKept s u :=
  ⟨g.pending.trans h.pending, g.inReset.trans h.inReset, g.inputs.trans h.inputs, g.sampled.trans h.sampled,
    g.timebase.trans h.timebase, g.programs.trans h.programs⟩

theorem State.segments_congr (h : t.programs = s.programs) : t.segments = s.segments := by
  funext q
  rw [State.segments, h, State.segments]

theorem State.levelNow_congr (h : t.lines.inputs = s.lines.inputs) : t.levelNow = s.levelNow := by
  funext l
  rw [State.levelNow, h, State.levelNow]

/-! ### The WAVE lines of runs that begin -/

/-- Driving a WAVE line leaves every other line. -/
theorem State.driveWave_outputs_other (s : State) {e : Engine} (h : ∀ p, e.params = .pulseTrain p → p.wave ≠ l) :
    (s.driveWave e).lines.outputs.get l = s.lines.outputs.get l := by
  cases e with
  | pulseTrain p r =>
    have hl : l ≠ p.wave := fun e => h p rfl e.symm
    unfold State.driveWave
    dsimp only
    split
    · simp [hl]
    · rfl
  | _ => rfl

/-- A slot's WAVE line is another line. -/
def State.WaveNot (s : State) (l : OutLine) (j : Slot) : Prop :=
  ∀ a p, s.task? j = some a → a.engine.params = .pulseTrain p → p.wave ≠ l

theorem State.beginRun_outputs_other (h : s.WaveNot l k) :
    (s.beginRun k level now).lines.outputs.get l = s.lines.outputs.get l := by
  unfold State.beginRun
  split
  next a ha =>
    rw [State.driveWave_outputs_other _ fun p hp => h a p ha (by simpa [Task.begun] using hp)]
    rfl
  next => rfl

/-- Segment 0 begins on the WAVE line. -/
theorem State.beginRun_outputs_wave {r : TrainRun} {g : Segment} (ha : s.task? k = some a)
    (he : a.engine = .pulseTrain p r) (hg : (s.segments p.program)[0]? = some g) :
    (s.beginRun k level now).lines.outputs.get p.wave = (s.lines.outputs.get p.wave).drive (g.level == .active) := by
  have hrun : (a.begun s.segments level now).engine =
      .pulseTrain p { index := 0, remaining := g.duration, loopsDone := 0, waiting := g.wait } := by
    simp [Task.begun, he, Engine.fresh, TrainRun.atSegment, hg]
  simp only [State.beginRun, ha, hrun]
  rw [State.driveWave_outputs (g := g) _ _ _ hg, if_pos rfl]
  rfl

theorem foldl_beginRun_outputs_other (members : List Slot) (hnodup : members.Nodup) (h : ∀ j ∈ members, s.WaveNot l j) :
    (members.foldl (fun s j => s.beginRun j s.levelNow now) s).lines.outputs.get l = s.lines.outputs.get l := by
  induction members generalizing s with
  | nil => rfl
  | cons m rest ih =>
    obtain ⟨hm, hrest⟩ := List.nodup_cons.1 hnodup
    rw [List.foldl_cons, ih hrest fun j hj b p hb => ?_, State.beginRun_outputs_other (h m (by simp))]
    rw [s.beginRun_task?_ne m j now fun e => hm (e ▸ hj)] at hb
    exact h j (by simp [hj]) b p hb

theorem foldl_beginRun_outputs_wave {r : TrainRun} {g : Segment} (members : List Slot) (hnodup : members.Nodup)
    (hj : j ∈ members) (ha : s.task? j = some a) (he : a.engine = .pulseTrain p r)
    (hg : (s.segments p.program)[0]? = some g) (h : ∀ i ∈ members, i ≠ j → s.WaveNot p.wave i) :
    (members.foldl (fun s j => s.beginRun j s.levelNow now) s).lines.outputs.get p.wave =
      (s.lines.outputs.get p.wave).drive (g.level == .active) := by
  induction members generalizing s with
  | nil => cases hj
  | cons m rest ih =>
    obtain ⟨hm, hrest⟩ := List.nodup_cons.1 hnodup
    have hleft : ∀ i ∈ rest, i ≠ j → (s.beginRun m s.levelNow now).WaveNot p.wave i := by
      intro i hi hij b p' hb
      rw [s.beginRun_task?_ne m i now fun e => hm (e ▸ hi)] at hb
      exact h i (by simp [hi]) hij b p' hb
    rw [List.foldl_cons]
    by_cases hmj : m = j
    · subst hmj
      rw [foldl_beginRun_outputs_other rest hrest fun i hi => hleft i hi fun e => hm (e ▸ hi),
        State.beginRun_outputs_wave ha he hg]
    · have hj' : j ∈ rest := (List.mem_cons.1 hj).resolve_left fun e => hmj e.symm
      have hsegments : (s.beginRun m s.levelNow now).segments = s.segments := by
        funext q
        simp only [State.segments, (s.beginRun_frame m now s.levelNow).2.2.2.2.2.2.1]
      rw [ih hrest hj' ((s.beginRun_task?_ne m j now (fun e => hmj e.symm) _).trans ha) (by rw [hsegments]; exact hg) hleft,
        State.beginRun_outputs_other (h m (by simp) hmj)]

/-- The dependents begin on the levels and the programs as they stand. -/
theorem begun_levels (s : State) (members : List Slot) :
    (members.foldl (fun s j => s.beginRun j s.levelNow now) s).levelNow = s.levelNow ∧
      (members.foldl (fun s j => s.beginRun j s.levelNow now) s).segments = s.segments := by
  obtain ⟨-, -, -, hin, -, -, hprog, -⟩ := foldl_beginRun_frame s now members
  constructor
  · funext l
    simp only [State.levelNow, hin]
  · funext q
    simp only [State.segments, hprog]

theorem otherLevel_ne (l : Level) : otherLevel l ≠ l := by cases l <;> simp [otherLevel]

/-! ### A run that begins is one that the claims call started -/

/-- The record of a run that begins keeps its counts, and stands in the initial form (R12). -/
theorem started_of_begun (ha : s.task? k = some a) (hb : t.task? k = some (a.begun s.segments level now))
    (hwave : ∀ p r g, a.engine = .pulseTrain p r → (s.segments p.program)[0]? = some g →
      t.lines.outputs.get p.wave = (s.lines.outputs.get p.wave).drive (g.level == .active)) :
    Started s t k level now id := by
  refine ⟨a, _, ha, hb, rfl, rfl, ?held, Engine.fresh_startsAs _ _ _, rfl, rfl, rfl, rfl, rfl, rfl, ?wave⟩
  case held =>
    simp only [Task.begun, Task.gateClosed]
    cases a.common.gate <;> simp
  case wave =>
    intro p r g he hg
    rw [hwave p r g he hg, Output.drive_level]
    cases g.level with
    | inactive => simp
    | active => simp [otherLevel_ne]

/-! ### The starts of a request -/

/-- What the starts of `members` at the instant of a request leave of `s`. -/
structure StartsLeave (s t : State) (members : List Slot) (cause : StartCause) : Prop where
  begun : ∀ k ∈ members, t.task? k = (s.task? k).map fun a => a.begun s.segments s.levelNow s.timebase.time
  others : ∀ k, k ∉ members → t.task? k = s.task? k
  updates : t.tasks.updates = s.tasks.updates
  blocks : OtherBlocksKept s t
  reports : t.reports = s.reports
  events : t.events =
    (s.offering s.timebase.time [] (members.flatMap fun k => (s.task? k).elim [] fun a => startOffers k a cause)).events
  link : t.link = s.link
  outputs : t.lines.outputs = (members.foldl (fun u k => u.beginRun k u.levelNow s.timebase.time) s).lines.outputs

theorem startSlots_leave (hnodup : members.Nodup) (cause : StartCause) (s : State) :
    StartsLeave s (startSlots members cause s) members cause := by
  have htask := fun j => foldl_beginRun_task? s j s.timebase.time members hnodup
  have hframe := foldl_beginRun_frame s s.timebase.time members
  have hstarts : startSlots members cause s =
      (members.foldl (fun s' k => s'.beginRun k s'.levelNow s.timebase.time) s).offering s.timebase.time []
        (members.flatMap fun k => ((members.foldl (fun s' k => s'.beginRun k s'.levelNow s.timebase.time) s).task? k).elim []
          fun a => startOffers k a cause) := by
    simp only [startSlots, Work.foldl_offerStarted, Work.finish_eq]
    rfl
  generalize hu : members.foldl (fun s' k => s'.beginRun k s'.levelNow s.timebase.time) s = u at *
  obtain ⟨hpending, hreset, hupdates, hinputs, hsampled, htime, hprograms, hreports, hevents, hlink⟩ := hframe
  have hoffers : (members.flatMap fun k => (u.task? k).elim [] fun a => startOffers k a cause) =
      members.flatMap fun k => (s.task? k).elim [] fun a => startOffers k a cause := by
    refine List.flatMap_congr fun k hk => ?_
    rw [htask, if_pos hk]
    cases s.task? k <;> rfl
  rw [hstarts, hoffers]
  exact {
    begun := fun k hk => by rw [State.offering_task?, htask, if_pos hk]
    others := fun k hk => by rw [State.offering_task?, htask, if_neg hk]
    updates := (State.offering_updates ..).trans hupdates
    blocks := OtherBlocksKept.trans ⟨hpending, hreset, hinputs, hsampled, htime, hprograms⟩ (State.offering_blocks ..)
    reports := (State.offering_reports ..).trans hreports
    events := State.offering_events_congr hevents htime _ _ _
    link := (State.offering_link ..).trans hlink
    outputs := by rw [State.offering_lines, hu] }

end Sys2Proof.Machine
end

section
/-! The requests on slots, on outputs and on the timebase: each by its checks in order, and the state its effects leave (R7 to
R12, R21, R22, R30, R42, R48, R52, R122, R193). -/

namespace Sys2Proof.Machine

variable {s e t : State} {c : Instr} {q : Request} {f : Frame} {rest : List Frame} {a b : Byte} {p more : List Byte}
  {k : Slot} {serve : Frame → State → State × Reply} {accepts : TaskState → Bool} {x : Task}

/-! ### A request on a slot in some states of its task (R3) -/

theorem inStates_refused {effect : Task → State} (h : ¬accepts x.state = true) :
    inStates s accepts effect (some x) = refuse s .badState := if_neg h

theorem inStates_accepted {effect : Task → State} (h : accepts x.state = true) :
    inStates s accepts effect (some x) = (effect x, Reply.ok) := if_pos h

/-- The service of a request on a slot in some states of its task. -/
def SlotService (serve : Frame → State → State × Reply) (accepts : TaskState → Bool) (effect : Slot → State → Task → State)
    (f : Frame) (s : State) : Prop :=
  serve f s = onSlot f s fun k s t => inStates s accepts (effect k s) t

section
variable {effect : Slot → State → Task → State} (h : Taking s q f rest)
  (hserve : SlotService serve accepts effect f s.popRequest) (hp : f.payload = b :: more) (hb : finOf? 16 b.toNat = some k)
include h hserve hp hb

theorem takeRequest_free (ht : (s.readyFor [k]).task? k = none) :
    takeRequest q serve s = (s.readyFor [k]).answered rest f .badState [] :=
  takeRequest_onSlot (r := Reply.refuse .badState) h hserve hp hb (by rw [ht]; rfl) (readyFor_link s [k])

theorem takeRequest_otherState (ht : (s.readyFor [k]).task? k = some x) (hx : ¬accepts x.state = true) :
    takeRequest q serve s = (s.readyFor [k]).answered rest f .badState [] :=
  takeRequest_onSlot (r := Reply.refuse .badState) h hserve hp hb (by rw [ht, inStates_refused hx]; rfl)
    (readyFor_link s [k])

theorem takeRequest_inState (ht : (s.readyFor [k]).task? k = some x) (hx : accepts x.state = true)
    (heffect : effect k (s.readyFor [k]).popRequest x = e.popRequest) (hlink : e.link = s.link) :
    takeRequest q serve s = e.answered rest f .ok [] :=
  takeRequest_onSlot (r := Reply.ok) h hserve hp hb (by rw [ht, inStates_accepted hx, heffect]) hlink

end

theorem atRest_iff {st : TaskState} : st.atRest = true ↔ st = .idle ∨ st = .done ∨ st = .faulted := by
  cases st <;> simp [TaskState.atRest]

theorem ownedBy_iff_roles {o : Output} :
    o.ownedBy k = true ↔ o.owner = .task k .wave ∨ o.owner = .task k .mark ∨ o.owner = .task k .alert := by
  rw [ownedBy_iff]
  constructor
  · rintro ⟨r, hr⟩
    cases r <;> simp [hr]
  · rintro (hr | hr | hr) <;> exact ⟨_, hr⟩

/-- The outputs of a slot, told by their roles. -/
theorem ite_ownedBy {α : Type} (o : Output) (k : Slot) (u v : α) :
    (if o.ownedBy k then u else v) =
      if o.owner = .task k .wave ∨ o.owner = .task k .mark ∨ o.owner = .task k .alert then u else v :=
  if_congr ownedBy_iff_roles rfl rfl

/-! ### DELETE_TASK (R7) -/

theorem delete_eq (s : State) (k : Slot) (x : Task) :
    s.delete k x =
      { s with
        tasks := { slots := s.tasks.slots.set k none, updates := s.tasks.updates.set k none }
        lines :=
          { s.lines with
            inputs := s.lines.inputs.map fun i => { i with claims := i.claims.filter fun c => c.1 ≠ k }
            outputs := s.lines.outputs.map fun o =>
              if o.owner = .task k .wave ∨ o.owner = .task k .mark ∨ o.owner = .task k .alert then
                { o with owner := .none, level := o.idle, markEnd := none }
              else o }
        programs :=
          (match x.engine with
           | .pulseTrain p _ =>
             s.programs.set p.program
               { s.programs.get p.program with refCount := (s.programs.get p.program).refCount - 1 }
           | _ => s.programs) } := by
  have hclaims : (fun c : Slot × InRole => c.1 != k) = fun c => decide (c.1 ≠ k) := by
    funext c
    rw [bne, beq_eq_decide, decide_not]
  have houtputs : (fun o : Output => if o.ownedBy k then o.release else o) = fun o =>
      if o.owner = .task k .wave ∨ o.owner = .task k .mark ∨ o.owner = .task k .alert then
        { o with owner := .none, level := o.idle, markEnd := none }
      else o := funext fun o => ite_ownedBy o k o.release o
  unfold State.delete
  rw [hclaims, houtputs]
  cases x.engine <;> rfl

/-- Settles O23: DELETE_TASK by its checks, then the slot, its claims, its outputs and its program's count (R7). -/
theorem deleteTaskFreesTheSlot : Obligations.DeleteTaskFreesTheSlot := by
  intro s f rest h
  refine congrArg Host.Outcome.next ?_
  split
  next b hp =>
    have hserve : SlotService serveDeleteTask TaskState.atRest (fun k s x => s.delete k x) f s.popRequest :=
      withLen_of_length _ (by rw [hp]; rfl)
    split
    next hb => exact takeRequest_badSlot h hserve hp hb
    next k hb =>
      dsimp only
      split
      next ht => exact takeRequest_free h hserve hp hb ht
      next x ht =>
        split
        next hx =>
          have hout := s.readyFor_outside [k]
          rw [← hout.updates, ← hout.blocks.inputs, ← hout.blocks.programs]
          refine (takeRequest_inState (e := (s.readyFor [k]).delete k x) h hserve hp hb ht (atRest_iff.2 hx) ?_ ?_).trans
            (congrArg (State.answered · rest f .ok []) (delete_eq (s.readyFor [k]) k x))
          · rw [delete_eq, delete_eq]
            rfl
          · rw [State.delete_link, hout.link]
        next hx => exact takeRequest_otherState h hserve hp hb ht (mt atRest_iff.1 hx)
  next hp => exact takeRequest_badLength h (length_ne_one_of_ne hp)

/-! ### ARM_TASK and DISARM_TASK (R8, R9) -/

theorem driveOpt_popRequest (s : State) (l : Option OutLine) (active : Bool) :
    s.popRequest.driveOpt l active = (s.driveOpt l active).popRequest := by cases l <;> rfl

@[simp] theorem driveOpt_link (s : State) (l : Option OutLine) (active : Bool) : (s.driveOpt l active).link = s.link := by
  cases l <;> rfl

theorem arm_eq (s : State) (k : Slot) (x : Task) :
    (s.setTask k x.armed).driveOpt x.engine.alertLine? false =
      { s with
        tasks :=
          { s.tasks with
            slots := s.tasks.slots.set k
              (some
                { x with
                  state := .armed, held := false, runCount := 0, overrunCount := 0, faultReason := none
                  clockDue := false
                  engine :=
                    (match x.engine with
                     | .position p r =>
                       .position p { r with position := p.preset, phaseErrors := 0, indexSeen := false }
                     | .deadline p r => .deadline p { r with expiryDue := false, alert := false }
                     | y => y) }) }
        lines :=
          { s.lines with
            outputs :=
              (match x.engine with
               | .deadline p _ =>
                 (match p.alert with
                  | some l => s.lines.outputs.set l { s.lines.outputs.get l with level := (s.lines.outputs.get l).idle }
                  | none => s.lines.outputs)
               | _ => s.lines.outputs) } } := by
  unfold Task.armed
  cases x.engine with
  | deadline p r =>
    dsimp only [Engine.alertLine?]
    cases p.alert <;> rfl
  | _ => rfl

theorem disarm_eq (s : State) (k : Slot) (x : Task) :
    (s.setTask k x.disarmed).restOutputs k =
      { s with
        tasks :=
          { s.tasks with
            slots := s.tasks.slots.set k
              (some
                { x with
                  state := .idle, held := false, clockDue := false
                  engine :=
                    (match x.engine with
                     | .deadline p r => .deadline p { r with expiryDue := false, alert := false }
                     | y => y) }) }
        lines :=
          { s.lines with
            outputs := s.lines.outputs.map fun o =>
              if o.owner = .task k .wave ∨ o.owner = .task k .mark ∨ o.owner = .task k .alert then
                { o with level := o.idle, markEnd := none }
              else o } } := by
  have houtputs : (fun o : Output => if o.ownedBy k then o.rest else o) = fun o =>
      if o.owner = .task k .wave ∨ o.owner = .task k .mark ∨ o.owner = .task k .alert then
        { o with level := o.idle, markEnd := none }
      else o := funext fun o => ite_ownedBy o k o.rest o
  have hengine : x.engine.released =
      (match x.engine with
       | .deadline p r => .deadline p { r with expiryDue := false, alert := false }
       | y => y) := by cases x.engine <;> rfl
  unfold State.restOutputs Task.disarmed
  rw [houtputs, hengine]
  rfl

/-- Settles O24: both requests by their checks, then the record and the outputs they leave (R8, R9). -/
theorem armAndDisarmMoveTheSlot : Obligations.ArmAndDisarmMoveTheSlot := by
  intro s f rest
  refine ⟨fun h => congrArg Host.Outcome.next ?arm, fun h => congrArg Host.Outcome.next ?disarm⟩
  case arm =>
    split
    next b hp =>
      have hserve : SlotService serveArmTask TaskState.atRest
          (fun k s x => (s.setTask k x.armed).driveOpt x.engine.alertLine? false) f s.popRequest :=
        withLen_of_length _ (by rw [hp]; rfl)
      split
      next hb => exact takeRequest_badSlot h hserve hp hb
      next k hb =>
        dsimp only
        split
        next ht => exact takeRequest_free h hserve hp hb ht
        next x ht =>
          split
          next hx =>
            refine (takeRequest_inState
              (e := ((s.readyFor [k]).setTask k x.armed).driveOpt x.engine.alertLine? false)
              h hserve hp hb ht (atRest_iff.2 hx) ?_ ?_).trans
              (congrArg (State.answered · rest f .ok []) (arm_eq (s.readyFor [k]) k x))
            · exact driveOpt_popRequest ((s.readyFor [k]).setTask k x.armed) _ false
            · rw [driveOpt_link]
              exact readyFor_link s [k]
          next hx => exact takeRequest_otherState h hserve hp hb ht (mt atRest_iff.1 hx)
    next hp => exact takeRequest_badLength h (length_ne_one_of_ne hp)
  case disarm =>
    split
    next b hp =>
      have hserve : SlotService serveDisarmTask (fun st => st == .armed)
          (fun k s x => (s.setTask k x.disarmed).restOutputs k) f s.popRequest :=
        withLen_of_length _ (by rw [hp]; rfl)
      split
      next hb => exact takeRequest_badSlot h hserve hp hb
      next k hb =>
        dsimp only
        split
        next ht => exact takeRequest_free h hserve hp hb ht
        next x ht =>
          split
          next hx =>
            exact (takeRequest_inState (e := ((s.readyFor [k]).setTask k x.disarmed).restOutputs k)
              h hserve hp hb ht (beq_iff_eq.2 hx) rfl (readyFor_link s [k])).trans
              (congrArg (State.answered · rest f .ok []) (disarm_eq (s.readyFor [k]) k x))
          next hx => exact takeRequest_otherState h hserve hp hb ht (mt beq_iff_eq.1 hx)
    next hp => exact takeRequest_badLength h (length_ne_one_of_ne hp)

/-! ### SET_POSITION (R122) -/

theorem ofNat_natAt_four {v3 v2 v1 v0 : Byte} :
    BitVec.ofNat 32 (natAt [b, v3, v2, v1, v0] 1 4) = v3 ++ v2 ++ v1 ++ v0 := by
  have hcat : ∀ (n : Nat) (x : BitVec n) (y : Byte), (x ++ y).toNat = x.toNat * 256 + y.toNat := fun n x y => by
    rw [BitVec.toNat_append, ← Nat.shiftLeft_add_eq_or_of_lt y.isLt, Nat.shiftLeft_eq]
  have hnat : natAt [b, v3, v2, v1, v0] 1 4 = ((v3.toNat * 256 + v2.toNat) * 256 + v1.toNat) * 256 + v0.toNat := by
    simp [natAt, beNat]
  apply BitVec.eq_of_toNat_eq
  rw [hnat, BitVec.toNat_ofNat, hcat, hcat, hcat]
  omega

/-- What SET_POSITION does with the record it finds. -/
def setPositionOn (v : Position) (k : Slot) (s : State) : Option Task → State × Reply
  | none => refuse s .badState
  | some t =>
    match t.engine.setPosition? v with
    | some e => (s.setTask k { t with engine := e }, Reply.ok)
    | none => refuse s .badParam

/-- Settles O28: SET_POSITION by its checks, then the position alone (R122). -/
theorem setPositionSetsThePositionAlone : Obligations.SetPositionSetsThePositionAlone := by
  intro s f rest h
  refine congrArg Host.Outcome.next ?_
  split
  next b v3 v2 v1 v0 hp =>
    have hserve : serveSetPosition f s.popRequest = onSlot f s.popRequest (setPositionOn (v3 ++ v2 ++ v1 ++ v0)) := by
      rw [serveSetPosition, withLen_of_length _ (by rw [hp]; rfl), hp, ofNat_natAt_four]
      rfl
    split
    next hb => exact takeRequest_badSlot h hserve hp hb
    next k hb =>
      have hlink := readyFor_link s [k]
      dsimp only
      split
      next ht => exact takeRequest_onSlot (r := Reply.refuse .badState) h hserve hp hb (by rw [ht]; rfl) hlink
      next x ht =>
        split
        next p r hx =>
          exact takeRequest_onSlot (r := Reply.ok)
            (e := (s.readyFor [k]).setTask k { x with engine := .position p { r with position := v3 ++ v2 ++ v1 ++ v0 } })
            h hserve hp hb (by rw [ht, setPositionOn, hx]; rfl) hlink
        next hx =>
          refine takeRequest_onSlot (r := Reply.refuse .badParam) h hserve hp hb ?_ hlink
          have hnone : x.engine.setPosition? (v3 ++ v2 ++ v1 ++ v0) = none := by
            cases he : x.engine with
            | position p r => exact absurd he (hx p r)
            | _ => rfl
          rw [ht, setPositionOn, hnone]
          rfl
  next hp =>
    refine takeRequest_badLength h fun hlen => ?_
    obtain ⟨b, v3, v2, v1, v0, hp'⟩ : ∃ b v3 v2 v1 v0, f.payload = [b, v3, v2, v1, v0] := by
      match f.payload, hlen with
      | [b, v3, v2, v1, v0], _ => exact ⟨b, v3, v2, v1, v0, rfl⟩
    exact hp b v3 v2 v1 v0 hp'

end Sys2Proof.Machine
end

section
/-! SET_OUTPUT, the task reset and SET_TICK: their checks in order and their effects (R30, R40, R42, R48, R52, R193). -/

namespace Sys2Proof.Machine

variable {s e : State} {c : Instr} {q : Request} {f : Frame} {rest : List Frame} {a b x : Byte} {k : Slot} {l : OutLine}
  {effect : Output → Output}

/-! ### SET_OUTPUT (R42) -/

theorem taskOwned_iff {o : Output} : o.taskOwned = true ↔ ∃ k r, o.owner = .task k r := by
  unfold Output.taskOwned
  split
  next k r h => simp [h]
  next h => simp [h]
  next h => simp [h]

theorem setOutputWith_badParam (hp : f.payload = [a, x]) (ha : 7 < a.toNat) :
    setOutputWith effect f s = refuse s .badParam := by
  simp [setOutputWith, hp, byteAt, outLineOf?, finOf?_eq_none.2 ha]

theorem setOutputWith_of_line (hp : f.payload = [a, x]) (ha : a.toNat = l.val) :
    setOutputWith effect f s =
      if (s.lines.outputs.get l).taskOwned then refuse s .outputOwned else (s.onOutput l effect, Reply.ok) := by
  simp [setOutputWith, hp, byteAt, outLineOf?, finOf?_eq_some.2 ha]

/-- The effect of each action of SET_OUTPUT. -/
def outputEffect (c : Instr) : Output → Output :=
  if c = .setOutputActive then Output.host true else if c = .setOutputIdle then Output.host false else Output.release

theorem outputEffect_eq (c : Instr) (o : Output) :
    outputEffect c o =
      if c = .setOutputActive then { o with owner := .host, level := otherLevel o.idle }
      else if c = .setOutputIdle then { o with owner := .host, level := o.idle }
      else { o with owner := .none, level := o.idle, markEnd := none } := by
  unfold outputEffect
  split_ifs <;> rfl

/-- Each action row is the taking of a request with its effect. -/
theorem exec_setOutput
    (hc : (c = .setOutputActive ∧ Taking s .setOutputActive f rest ∧ f.payload = [a, 0x01]) ∨
      (c = .setOutputIdle ∧ Taking s .setOutputIdle f rest ∧ f.payload = [a, 0x00]) ∨
      (c = .setOutputRelease ∧ Taking s .setOutputRelease f rest ∧ f.payload = [a, 0x02])) :
    ∃ q x, Taking s q f rest ∧ f.payload = [a, x] ∧ exec c s = .next (takeRequest q (setOutputWith (outputEffect c)) s) := by
  rcases hc with ⟨rfl, h, hp⟩ | ⟨rfl, h, hp⟩ | ⟨rfl, h, hp⟩ <;> exact ⟨_, _, h, hp, rfl⟩

/-- Settles O19: the line, its owner, and the effect of the action (R40, R42). -/
theorem setOutputTakesDrivesAndReleases : Obligations.SetOutputTakesDrivesAndReleases := by
  intro s f rest a c hc
  obtain ⟨q, x, h, hp, hexec⟩ := exec_setOutput hc
  rw [hexec]
  refine ⟨fun ha => ?badParam, fun l k r ha hk => ?owned, fun l ha hk => ?effect⟩
  case badParam => rw [takeRequest_refused h (setOutputWith_badParam hp ha)]
  case owned =>
    have howned : (s.popRequest.lines.outputs.get l).taskOwned = true := taskOwned_iff.2 ⟨k, r, hk⟩
    rw [takeRequest_refused h ((setOutputWith_of_line hp ha).trans (if_pos howned))]
  case effect =>
    have hfree : ¬(s.popRequest.lines.outputs.get l).taskOwned = true := fun howned =>
      let ⟨k, r, hr⟩ := taskOwned_iff.1 howned
      hk k r hr
    rw [takeRequest_accepted (e := s.onOutput l (outputEffect c)) h rfl
      ((setOutputWith_of_line hp ha).trans (if_neg hfree)), ← outputEffect_eq]
    rfl

/-! ### RESET_DEVICE with scope TASKS (R193) -/

theorem freeAllSlots_eq (s : State) :
    freeAllSlots s =
      { s with
        tasks := { slots := Bank.fill 16 none, updates := Bank.fill 16 none }
        lines :=
          { s.lines with
            inputs := s.lines.inputs.map fun i => { i with claims := [] }
            outputs := s.lines.outputs.map fun o =>
              match o.owner with
              | .task _ _ => { o with owner := .none, level := o.idle, markEnd := none }
              | .host => o
              | .none => o }
        programs := s.programs.map fun p => { p with refCount := 0 } } := by
  have houtputs : (fun o : Output => if o.taskOwned then o.release else o) = fun o =>
      match o.owner with
      | .task _ _ => { o with owner := .none, level := o.idle, markEnd := none }
      | .host => o
      | .none => o := by
    funext o
    obtain ⟨idle, owner, level, markEnd⟩ := o
    cases owner <;> rfl
  unfold freeAllSlots
  rw [houtputs]

theorem serveResetDeviceTasks_popRequest (f : Frame) (s : State) :
    serveResetDeviceTasks f s.popRequest =
      (((freeAllSlots s.settle).offerDevice (.deviceReset .tasks)).popRequest, Reply.ok) := by
  rw [serveResetDeviceTasks, settle_popRequest]
  rfl

/-- Settles O12: the events acted on before are over, the slots are freed, and DEVICE_RESET is offered (R193). -/
theorem taskResetFreesEverySlot : Obligations.TaskResetFreesEverySlot := by
  intro s e f rest h he
  have hout := s.settle_outside
  have hlink : ((freeAllSlots s.settle).offerDevice (.deviceReset .tasks)).link = s.link := hout.link
  refine congrArg Host.Outcome.next ?_
  refine (takeRequest_accepted h hlink (serveResetDeviceTasks_popRequest f s)).trans ?_
  rw [he, freeAllSlots_eq, ← hout.blocks.inputs, ← hout.blocks.programs, ← hout.blocks.timebase]
  rfl

/-! ### SET_TICK (R52) -/

theorem tickRateOf?_eq_some {rate : TickRate} : tickRateOf? b = some rate ↔ tickLayout rate = b := by
  constructor
  · intro h
    unfold tickRateOf? at h
    split_ifs at h with h0 h1 h2 h3 <;> obtain rfl := Option.some.inj h
    exacts [h0.symm, h1.symm, h2.symm, h3.symm]
  · rintro rfl
    cases rate <;> rfl

theorem tickRateOf?_eq_none : tickRateOf? b = none ↔ 3 < b.toNat := by
  unfold tickRateOf?
  split_ifs with h0 h1 h2 h3
  · simp [h0]
  · simp [h1]
  · simp [h2]
  · simp [h3]
  · simp only [true_iff]
    bv_omega

theorem engaged_iff {t : Task} : t.engaged = true ↔ t.state = .armed ∨ t.state = .running ∨ t.state = .stopping := by
  simp [Task.engaged, inRun_iff]

theorem anyEngaged_iff :
    s.anyEngaged = true ↔ ∃ k t, s.task? k = some t ∧ (t.state = .armed ∨ t.state = .running ∨ t.state = .stopping) := by
  unfold State.anyEngaged
  rw [Bank.any_iff]
  refine exists_congr fun k => ?_
  cases h : s.tasks.slots.get k with
  | none => simp [State.task?, h]
  | some t => simp [State.task?, h, engaged_iff]

theorem not_engaged (h : ∀ k t, s.task? k = some t → t.state ≠ .armed ∧ t.state ≠ .running ∧ t.state ≠ .stopping) :
    ¬s.anyEngaged = true := by
  rw [anyEngaged_iff]
  rintro ⟨k, t, ht, hstate⟩
  obtain ⟨harmed, hrunning, hstopping⟩ := h k t ht
  rcases hstate with hstate | hstate | hstate
  exacts [harmed hstate, hrunning hstate, hstopping hstate]

/-- SET_TICK with a rate, once every earlier event is over. -/
theorem serveSetTick_of_rate {rate : TickRate} (hp : f.payload = [b]) (hb : tickRateOf? b = some rate) :
    serveSetTick f s.popRequest =
      if s.settle.anyEngaged then refuse s.settle.popRequest .badState
      else if s.settle.reports.entries.any fun x => x.epoch == s.settle.timebase.epoch + 1 then
        refuse s.settle.popRequest .badState
      else ((s.settle.restartTime rate).popRequest, Reply.ok) := by
  rw [serveSetTick, withLen_of_length _ (by rw [hp]; rfl), hp, byteAt, List.getD_cons_zero, hb]
  simp only [settle_popRequest]
  rfl

theorem cutMark_eq (o : Output) :
    o.cutMark = if o.markEnd = none then o else { o with level := o.idle, markEnd := none } := by
  unfold Output.cutMark
  cases o.markEnd <;> rfl

theorem restartTime_eq (s : State) (rate : TickRate) :
    s.restartTime rate =
      { s with
        tasks := { s.tasks with updates := Bank.fill 16 none }
        lines :=
          { s.lines with
            outputs := s.lines.outputs.map fun o =>
              if o.markEnd = none then o else { o with level := o.idle, markEnd := none } }
        timebase := { rate := rate, time := 0, epoch := s.timebase.epoch + 1 } } := by
  unfold State.restartTime
  rw [funext cutMark_eq]

/-- Settles O16: the length, the rate, the slots and the epochs of the queue, then the four effects (R52). -/
theorem setTickRestartsDeviceTime : Obligations.SetTickRestartsDeviceTime := by
  intro s e f rest h he
  subst he
  have hout := s.settle_outside
  have hepoch : s.settle.timebase.epoch = s.timebase.epoch := congrArg Timebase.epoch hout.blocks.timebase
  refine ⟨fun hlen => ?length, fun b hp hb => ?param, fun b hp hb hengaged => ?engaged,
    fun b hp hb hrest hold => ?epoch, fun b rate hp hrate hrest hnew => ?effect⟩ <;>
    refine congrArg Host.Outcome.next ?_
  case length => exact takeRequest_badLength h hlen
  case param =>
    refine takeRequest_refused h ?_
    rw [serveSetTick, withLen_of_length _ (by rw [hp]; rfl), hp, byteAt, List.getD_cons_zero, tickRateOf?_eq_none.2 hb]
  case engaged =>
    obtain ⟨rate, hrate⟩ := Option.ne_none_iff_exists'.1 (mt tickRateOf?_eq_none.1 (Nat.not_lt.2 hb))
    exact takeRequest_served (r := Reply.refuse .badState) h hout.link
      ((serveSetTick_of_rate hp hrate).trans (if_pos (anyEngaged_iff.2 hengaged)))
  case epoch =>
    obtain ⟨rate, hrate⟩ := Option.ne_none_iff_exists'.1 (mt tickRateOf?_eq_none.1 (Nat.not_lt.2 hb))
    obtain ⟨x, hx, hxe⟩ := hold
    have hany : (s.settle.reports.entries.any fun x => x.epoch == s.settle.timebase.epoch + 1) = true :=
      List.any_eq_true.2 ⟨x, hx, by rw [hepoch, hxe, beq_self_eq_true]⟩
    exact takeRequest_served (r := Reply.refuse .badState) h hout.link
      ((serveSetTick_of_rate hp hrate).trans ((if_neg (not_engaged hrest)).trans (if_pos hany)))
  case effect =>
    have hany : ¬(s.settle.reports.entries.any fun x => x.epoch == s.settle.timebase.epoch + 1) = true := fun hany => by
      obtain ⟨x, hx, hxe⟩ := List.any_eq_true.1 hany
      exact hnew x hx (hepoch ▸ beq_iff_eq.1 hxe)
    refine (takeRequest_accepted (e := s.settle.restartTime rate) h hout.link
      ((serveSetTick_of_rate hp (tickRateOf?_eq_some.2 hrate)).trans
        ((if_neg (not_engaged hrest)).trans (if_neg hany)))).trans ?_
    rw [restartTime_eq, hepoch]

end Sys2Proof.Machine
end

section
/-! The requests that start and stop runs: their checks, the states their events leave, and the reports they offer (R10 to R12,
R21, R22). -/

namespace Sys2Proof.Machine

variable {s d e t : State} {c : Instr} {q : Request} {f : Frame} {rest : List Frame} {a b : Byte} {j k : Slot} {l : OutLine}
  {x y : Task} {p : TrainParams} {slots : List Slot} {cause : StartCause} {serve : Frame → State → State × Reply}

/-! ### The states in which a request's event begins -/

theorem clearFor_readyFor_outside (s : State) (slots : List Slot) :
    OutsideTurns s ((s.readyFor slots).clearFor slots) :=
  (s.readyFor_outside slots).trans ((s.readyFor slots).clearFor_outside slots)

theorem task?_clearFor_readyFor (h : k ∈ slots) :
    ((s.readyFor slots).clearFor slots).task? k = (s.readyFor slots).task? k :=
  task?_clearFor (undecided_readyFor h)

theorem requestEvent_link {event : State → State} (hevent : ∀ d, (event d).link = d.link) :
    ((s.readyFor slots).requestEvent slots event).link = s.link := by
  rw [State.requestEvent, (State.endEventsOf_outside _ slots).1.link, hevent, (clearFor_readyFor_outside s slots).link]

theorem blocks_of_outside (h : OutsideTurns s d) (g : OtherBlocksKept d t) : OtherBlocksKept s t := h.blocks.trans g

/-! ### The WAVE lines of distinct slots -/

theorem params_eq_train {y : Engine} (h : y.params = .pulseTrain p) : ∃ r, y = .pulseTrain p r := by
  cases y with
  | pulseTrain p' r =>
    obtain rfl := KindParams.pulseTrain.inj h
    exact ⟨r, rfl⟩
  | _ => cases h

/-- A WAVE line is the WAVE line of one slot alone (R39). -/
theorem State.OwnershipSound.waveNot (h : s.OwnershipSound) (hx : s.task? j = some x) (hp : x.engine.params = .pulseTrain p)
    (hk : k ≠ j) : s.WaveNot p.wave k := by
  intro y p' hy hp' hwave
  have hj : (s.lines.outputs.get p.wave).owner = .task j .wave := (h.owners _ _ _).2 ⟨x, hx, hp ▸ wave_mem⟩
  have hk' : (s.lines.outputs.get p'.wave).owner = .task k .wave := (h.owners _ _ _).2 ⟨y, hy, hp' ▸ wave_mem⟩
  rw [hwave, hj] at hk'
  exact hk (Owner.task.inj hk').1.symm

/-! ### START_TASK (R10) -/

/-- The starts of a request, told as the claims tell them. -/
theorem StartsLeave.started {members : List Slot} (h : StartsLeave d t members cause) (hd : OutsideTurns s d)
    (hnodup : members.Nodup) (hk : k ∈ members) (hx : d.task? k = some x)
    (hwave : ∀ p, x.engine.params = .pulseTrain p → ∀ i ∈ members, i ≠ k → d.WaveNot p.wave i) :
    Started d t k s.levelNow s.timebase.time id := by
  have hlevel : s.levelNow = d.levelNow := (State.levelNow_congr hd.blocks.inputs).symm
  have htime : s.timebase.time = d.timebase.time := congrArg Timebase.time hd.blocks.timebase.symm
  rw [hlevel, htime]
  refine started_of_begun hx (by rw [h.begun k hk, hx]; rfl) fun p r g he hg => ?_
  rw [h.outputs]
  exact foldl_beginRun_outputs_wave members hnodup hk hx he hg (hwave p (by rw [he]; rfl))

/-- Settles O25: the checks, then the event of the start in the state `d` in which no earlier report of the slot waits. -/
theorem startTaskStartsAnArmedTask : Obligations.StartTaskStartsAnArmedTask := by
  intro s f rest h
  refine ⟨fun hlen => congrArg Host.Outcome.next (takeRequest_badLength h hlen), fun b hp => ⟨fun hb => ?param, ?slot⟩⟩
  all_goals
    have hserve : SlotService serveStartTask (fun st => st == .armed)
        (fun k s _ => s.requestEvent [k] (startSlots [k] .host)) f s.popRequest :=
      withLen_of_length _ (by rw [hp]; rfl)
  case param => exact congrArg Host.Outcome.next (takeRequest_badSlot h hserve hp (finOf?_eq_none.2 hb))
  case slot =>
    rintro k e d hb rfl rfl
    have hk : finOf? 16 b.toNat = some k := finOf?_eq_some.2 hb
    refine ⟨fun hstate => congrArg Host.Outcome.next ?refused, fun x hx hstate => ?accepted⟩
    case refused =>
      cases hx : (s.readyFor [k]).task? k with
      | none => exact takeRequest_free h hserve hp hk hx
      | some x => exact takeRequest_otherState h hserve hp hk hx (mt beq_iff_eq.1 (hstate x hx))
    case accepted =>
      have hd := clearFor_readyFor_outside s [k]
      have hdx : ((s.readyFor [k]).clearFor [k]).task? k = some x := (task?_clearFor_readyFor (by simp)).trans hx
      have hleave := startSlots_leave (List.nodup_singleton k) .host ((s.readyFor [k]).clearFor [k])
      have hlink : ((s.readyFor [k]).requestEvent [k] (startSlots [k] .host)).link = s.link :=
        requestEvent_link fun d => (startSlots_leave (List.nodup_singleton k) .host d).link
      refine ⟨startSlots [k] .host ((s.readyFor [k]).clearFor [k]), congrArg Host.Outcome.next ?_,
        hleave.started hd (List.nodup_singleton k) (by simp) hdx ?_, fun j hj => hleave.others j (by simpa using hj),
        hleave.updates.trans hd.updates, blocks_of_outside hd hleave.blocks, hleave.reports, ?_, fun l hl => ?_,
        hleave.link.trans hd.link⟩
      · exact takeRequest_inState h hserve hp hk hx (beq_iff_eq.2 hstate)
          (requestEvent_popRequest (startSlots_relink [k] .host) [k] (hlink.trans (readyFor_link s [k]).symm)) hlink
      · intro p _ i hi hik
        exact absurd (List.mem_singleton.1 hi) hik
      · rw [hleave.events, hd.blocks.timebase, List.flatMap_singleton, hdx]
        rfl
      · rw [hleave.outputs]
        refine foldl_beginRun_outputs_other [k] (List.nodup_singleton k) fun j hj y p hy hp' => ?_
        obtain rfl := List.mem_singleton.1 hj
        obtain rfl : x = y := Option.some.inj (hdx.symm.trans hy)
        obtain ⟨r, hr⟩ := params_eq_train hp'
        exact (hl p r hr).symm

/-! ### START_GROUP (R11) -/

theorem natAt_two (hp : f.payload = [a, b]) : natAt f.payload 0 2 = (a ++ b : BitVec 16).toNat := by
  have hlt : natAt f.payload 0 2 < 65536 := natAt_lt f.payload 0 2
  rw [← seqOf_eq hp, seqOf, BitVec.toNat_ofNat, Nat.mod_eq_of_lt hlt]

theorem maskSlots_eq (mask : BitVec 16) :
    maskSlots mask.toNat = (indices 16).filter fun k => mask.getLsbD k.val := rfl

/-- A mask names no slot exactly where it is 0. -/
theorem maskSlots_eq_nil {mask : BitVec 16} : maskSlots mask.toNat = [] ↔ mask = 0 := by
  rw [maskSlots_eq, List.filter_eq_nil_iff]
  constructor
  · intro h
    refine BitVec.eq_of_getLsbD_eq fun i hi => ?_
    simpa using h ⟨i, hi⟩ (mem_indices _)
  · rintro rfl k -
    simp

theorem serveStartGroup_eq {turns : Turns} (hp : f.payload = [a, b]) :
    serveStartGroup turns f s.popRequest =
      (let named := maskSlots (a ++ b : BitVec 16).toNat
       let e := s.readyFor named
       if named = [] then refuse e.popRequest .badParam
       else if named.all e.isArmed then
         (e.popRequest.requestEvent named fun s => (startSlots named .group s).takeTurns turns, Reply.ok)
       else refuse e.popRequest .badState) := by
  rw [serveStartGroup, withLen_of_length _ (by rw [hp]; rfl), natAt_two hp]
  simp only [readyFor_popRequest, List.isEmpty_iff]
  rfl

theorem all_isArmed_iff : slots.all s.isArmed = true ↔ ∀ k ∈ slots, ∃ r, s.task? k = some r ∧ r.state = .armed := by
  simp only [List.all_eq_true, isArmed_iff]

/-- Settles O26: the checks, then the starts of all the named slots in one event, each as START_TASK's. -/
theorem startGroupStartsAllOrNone : Obligations.StartGroupStartsAllOrNone := by
  intro s f rest turns h
  refine ⟨fun hlen => congrArg Host.Outcome.next (takeRequest_badLength h hlen), ?_⟩
  rintro a b named e d hp hnamed rfl rfl
  rw [← maskSlots_eq] at hnamed
  subst hnamed
  have hserve := serveStartGroup_eq (s := s) (turns := turns) hp
  have hnodup := maskSlots_nodup (a ++ b : BitVec 16).toNat
  have hnil := maskSlots_eq_nil (mask := a ++ b)
  generalize maskSlots (a ++ b : BitVec 16).toNat = named at *
  have hready := readyFor_link s named
  refine ⟨fun hmask => congrArg Host.Outcome.next ?none, fun hidle => congrArg Host.Outcome.next ?refused,
    fun hmask hown harmed => ?started⟩
  case none =>
    obtain rfl := hnil.2 hmask
    exact takeRequest_refused h (hserve.trans (if_pos rfl))
  case refused =>
    obtain ⟨k, hk, hk'⟩ := hidle
    have hne : named ≠ [] := List.ne_nil_of_mem hk
    have hall : ¬named.all (s.readyFor named).isArmed = true := fun hall =>
      let ⟨r, hr, hr'⟩ := all_isArmed_iff.1 hall k hk
      hk' r hr hr'
    exact takeRequest_served (r := Reply.refuse .badState) h hready
      (hserve.trans ((if_neg hne).trans (if_neg hall)))
  case started =>
    have hne : named ≠ [] := mt hnil.1 hmask
    have hd := clearFor_readyFor_outside s named
    have hdx : ∀ k ∈ named, ((s.readyFor named).clearFor named).task? k = (s.readyFor named).task? k := fun k hk =>
      task?_clearFor_readyFor hk
    have hleave := startSlots_leave hnodup .group ((s.readyFor named).clearFor named)
    have hlink : ((s.readyFor named).requestEvent named fun s => (startSlots named .group s).takeTurns turns).link =
        s.link := requestEvent_link fun d => by
      rw [(State.takeTurns_outside _ turns).link, (startSlots_leave hnodup .group d).link]
    have hevent : ∀ (d : State) (l : Link), (startSlots named .group (d.relink l)).takeTurns turns =
        ((startSlots named .group d).takeTurns turns).relink l := fun d l => by
      rw [startSlots_relink, takeTurns_relink]
    refine ⟨startSlots named .group ((s.readyFor named).clearFor named), congrArg Host.Outcome.next ?_,
      fun k hk => ?_, fun k hk => hleave.others k hk, fun l hl => ?_, hleave.updates.trans hd.updates,
      blocks_of_outside hd hleave.blocks, hleave.reports, ?_, hleave.link.trans hd.link⟩
    · refine takeRequest_accepted h hlink (hserve.trans ((if_neg hne).trans ((if_pos (all_isArmed_iff.2 harmed)).trans ?_)))
      rw [requestEvent_popRequest hevent named (hlink.trans hready.symm)]
      rfl
    · obtain ⟨r, hr, -⟩ := harmed k hk
      have hr' := (hdx k hk).trans hr
      exact hleave.started hd hnodup hk hr' fun p hp i _ hik => hown.waveNot hr' hp hik
    · rw [hleave.outputs]
      refine foldl_beginRun_outputs_other named hnodup fun j hj y p hy hp' => ?_
      obtain ⟨r, hr⟩ := params_eq_train hp'
      exact (hl j hj y p r hy hr).symm
    · rw [hleave.events, hd.blocks.timebase]

/-! ### STOP_TASK (R21, R22) -/

theorem stateInRun_iff {st : TaskState} : st.inRun = true ↔ st = .running ∨ st = .stopping := by
  simp [TaskState.inRun]

/-- The end of a run by a stop: the record, the WAVE line idle, and the TASK_DONE that waits. -/
theorem endRun_eq (k : Slot) (x : Task) (ending : Ending) (d : State) :
    endRun k x ending d =
      State.offering
        { d with
          tasks :=
            { d.tasks with
              slots := d.tasks.slots.set k
                (some
                  { x with
                    state := .done, held := false, clockDue := false
                    engine :=
                      (match x.engine with
                       | .deadline p r => .deadline p { r with expiryDue := false }
                       | y => y) }) }
          lines :=
            { d.lines with
              outputs :=
                (match x.engine with
                 | .pulseTrain p _ =>
                   d.lines.outputs.set p.wave
                     { d.lines.outputs.get p.wave with level := (d.lines.outputs.get p.wave).idle }
                 | _ => d.lines.outputs) } }
        d.timebase.time [offerOf k x (.taskDone ending x.engine.principal x.runCount x.overrunCount)] [] := by
  have htask : ∀ y : Engine, ((d.setTask k (x.left .done)).idleWave y).task? k = some (x.left .done) := fun y => by
    cases y <;> exact State.task?_setTask_self ..
  unfold endRun
  rw [Work.finish_eq, Work.offer_of_some _ _ (htask x.engine)]
  refine congrArg (State.offering · _ _ _) ?_
  unfold Task.left
  cases x.engine <;> rfl

theorem endRun_link (k : Slot) (x : Task) (ending : Ending) (d : State) : (endRun k x ending d).link = d.link := by
  rw [endRun_eq, State.offering_link]

/-- Both modes are requests on a slot in a run. -/
theorem exec_stop {ending : Ending}
    (hc : (c = .stopTaskAbort ∧ Taking s .stopTaskAbort f rest ∧ f.payload = [b, 0x01] ∧ ending = .aborted) ∨
      (c = .stopTaskGraceful ∧ Taking s .stopTaskGraceful f rest ∧ f.payload = [b, 0x00] ∧ ending = .stopped)) :
    ∃ q serve effect more, Taking s q f rest ∧ f.payload = b :: more ∧ exec c s = .next (takeRequest q serve s) ∧
      SlotService serve TaskState.inRun effect f s.popRequest ∧
      (c = .stopTaskGraceful → effect = fun k s x => gracefulStop k x s) ∧
      ∀ k s x, x.state = .running ∧ (c = .stopTaskAbort ∨ x.engine.finishes = false) ∨
        x.state = .stopping ∧ c = .stopTaskAbort →
        effect k s x = s.requestEvent [k] (endRun k x ending) := by
  rcases hc with ⟨rfl, h, hp, rfl⟩ | ⟨rfl, h, hp, rfl⟩
  · exact ⟨_, serveStopAbort, fun k s x => s.requestEvent [k] (endRun k x .aborted), _, h, hp, rfl, rfl, nofun,
      fun _ _ _ _ => rfl⟩
  · refine ⟨_, serveStopGraceful, fun k s x => gracefulStop k x s, _, h, hp, rfl, rfl, fun _ => rfl,
      fun k s x hx => ?_⟩
    rcases hx with ⟨hstate, hx⟩ | ⟨-, hx⟩
    · have hfinish := hx.resolve_left nofun
      simp [gracefulStop, hstate, hfinish]
    · cases hx

/-- Settles O27: the checks, then a stop by the mode, the state and the kind. -/
theorem stopsEndOrFinishTheRun : Obligations.StopsEndOrFinishTheRun := by
  intro s f rest c b ending hc
  obtain ⟨q, serve, effect, more, h, hp, hexec, hserve, hgraceful, hends⟩ := exec_stop hc
  rw [hexec]
  refine ⟨fun hb => congrArg Host.Outcome.next (takeRequest_badSlot h hserve hp (finOf?_eq_none.2 hb)), ?_⟩
  rintro k e hb rfl
  have hk : finOf? 16 b.toNat = some k := finOf?_eq_some.2 hb
  have hready := readyFor_link s [k]
  refine ⟨fun hstate => congrArg Host.Outcome.next ?refused, fun x hx => ⟨fun hcg hstate => congrArg Host.Outcome.next ?stays,
    fun hcg hstate hfin => congrArg Host.Outcome.next ?finishes, fun hstop d t hd ht => congrArg Host.Outcome.next ?ends⟩⟩
  case refused =>
    cases hx : (s.readyFor [k]).task? k with
    | none => exact takeRequest_free h hserve hp hk hx
    | some x =>
      obtain ⟨hrunning, hstopping⟩ := hstate x hx
      exact takeRequest_otherState h hserve hp hk hx (mt stateInRun_iff.1 (not_or.2 ⟨hrunning, hstopping⟩))
  case stays =>
    exact takeRequest_inState h hserve hp hk hx (stateInRun_iff.2 (.inr hstate))
      (by rw [hgraceful hcg]; simp [gracefulStop, hstate]) hready
  case finishes =>
    exact takeRequest_inState (e := (s.readyFor [k]).setTask k { x with state := .stopping }) h hserve hp hk hx
      (stateInRun_iff.2 (.inl hstate)) (by rw [hgraceful hcg]; simp [gracefulStop, hstate, hfin]; rfl) hready
  case ends =>
    have hrun : x.state.inRun = true := stateInRun_iff.2 (hstop.imp And.left And.left)
    have hlink : ((s.readyFor [k]).requestEvent [k] (endRun k x ending)).link = s.link :=
      requestEvent_link fun d => endRun_link k x ending d
    have htime : s.timebase.time = d.timebase.time := by
      rw [hd, (clearFor_readyFor_outside s [k]).blocks.timebase]
    have ht' : t = endRun k x ending d := by rw [endRun_eq, ← htime]; exact ht
    rw [ht', hd]
    refine takeRequest_inState h hserve hp hk hx hrun ?_ hlink
    rw [hends k _ x hstop]
    exact requestEvent_popRequest (endRun_relink k x ending) [k] (hlink.trans hready.symm)

end Sys2Proof.Machine
end

section
/-! DEFINE_TASK: its checks in the order of R4, and the effects of one that passes them all (R4, R6, R35, R40, R64). -/

namespace Sys2Proof.Machine

variable {s : State} {f : Frame} {rest : List Frame} {k : Slot} {c : Common} {kind : KindParams}

/-! ### The checks that read the state (R4) -/

theorem waitWithoutTrigger_iff :
    s.waitWithoutTrigger c kind = true ↔
      ∃ p, kind.program? = some p ∧ c.trigger = none ∧ ∃ g ∈ (s.programs.get p).segments, g.wait = true := by
  unfold State.waitWithoutTrigger
  cases kind.program? with
  | none => simp
  | some p => simp [State.hasWait, State.segments]

theorem unsealed_iff :
    s.unsealed kind = true ↔ ∃ p, kind.program? = some p ∧ (s.programs.get p).state ≠ .sealed := by
  unfold State.unsealed
  cases kind.program? with
  | none => simp
  | some p => simp

theorem outputsFree_iff {outputs : List (OutLine × OutRole)} :
    s.outputsFree outputs = true ↔ ∀ l r, (l, r) ∈ outputs → (s.lines.outputs.get l).owner = .none := by
  simp [State.outputsFree]

theorem claimsFit_iff {claims : List (InLine × InRole)} :
    s.claimsFit claims = true ↔
      ∀ l, (s.lines.inputs.get l).claims.length + (claims.filter fun x => x.1 == l).length ≤ 4 := by
  rw [State.claimsFit, List.all_eq_true]
  exact ⟨fun h l => of_decide_eq_true (h l (mem_indices l)), fun h l _ => decide_eq_true (h l)⟩

/-! ### The steps of DEFINE_TASK -/

theorem serveDefineTask_badLength (h : defineLenOk f.payload = false) : serveDefineTask f s = refuse s .badLength := by
  rw [serveDefineTask, if_neg (by simp [h])]

theorem serveDefineTask_badSlot (h : defineLenOk f.payload = true) (hk : 15 < (byteAt f.payload 0).toNat) :
    serveDefineTask f s = refuse s .badParam := by
  rw [serveDefineTask, if_pos h, slotOf?, finOf?_eq_none.2 hk]

section
variable (h : defineLenOk f.payload = true) (hk : (byteAt f.payload 0).toNat = k.val)
include h hk

theorem serveDefineTask_of_slot :
    serveDefineTask f s = if (s.task? k).isSome then refuse s .badState else defineChecked k f s := by
  rw [serveDefineTask, if_pos h, slotOf?, finOf?_eq_some.2 hk]

theorem serveDefineTask_taken (ht : s.task? k ≠ none) : serveDefineTask f s = refuse s .badState := by
  rw [serveDefineTask_of_slot h hk, if_pos (Option.isSome_iff_ne_none.2 ht)]

theorem serveDefineTask_free (ht : s.task? k = none) : serveDefineTask f s = defineChecked k f s := by
  rw [serveDefineTask_of_slot h hk, if_neg (by simp [ht])]

end

theorem defineChecked_of_record (hf : recordOf? k f.payload = some (c, kind)) :
    defineChecked k f s =
      if s.waitWithoutTrigger c kind then refuse s .badParam
      else if s.unsealed kind then refuse s .badState
      else if !s.outputsFree (outputsOf c kind) then refuse s .outputOwned
      else if !s.claimsFit (claimsOf c kind) then refuse s .claimsFull
      else (s.define k c kind, Reply.ok) := by
  rw [defineChecked, hf]

/-- Settles O22: the checks of DEFINE_TASK one after another, each past the ones before it (R4). -/
theorem defineTaskRefusesInOrder : Obligations.DefineTaskRefusesInOrder := by
  intro s f rest h
  have hrefuse : ∀ st, serveDefineTask f s.popRequest = refuse s.popRequest st →
      exec .defineTask s = .next (s.answered rest f st []) := fun st hst =>
    congrArg Host.Outcome.next (takeRequest_refused h hst)
  refine ⟨fun hlen => hrefuse _ (serveDefineTask_badLength hlen), fun hlen =>
    ⟨fun hk => hrefuse _ (serveDefineTask_badSlot hlen hk), fun k hk =>
      ⟨fun ht => hrefuse _ (serveDefineTask_taken hlen hk ht), fun ht => ?free⟩⟩⟩
  have hchecked : ∀ st, defineChecked k f s.popRequest = refuse s.popRequest st →
      exec .defineTask s = .next (s.answered rest f st []) := fun st hst =>
    hrefuse st ((serveDefineTask_free (s := s.popRequest) hlen hk ht).trans hst)
  refine ⟨fun hf => hchecked _ (by rw [defineChecked, hf]), fun c kind hf => ?record⟩
  have hsteps := defineChecked_of_record (s := s.popRequest) hf
  refine ⟨fun p hp htrigger hwait => hchecked _ (hsteps.trans (if_pos (waitWithoutTrigger_iff.2 ⟨p, hp, htrigger, hwait⟩))),
    fun hwait => ?waits⟩
  have hnowait : ¬s.popRequest.waitWithoutTrigger c kind = true := by
    rw [waitWithoutTrigger_iff]
    rintro ⟨p, hp, htrigger, g, hg, hgwait⟩
    exact absurd (hwait p hp htrigger g hg) (by simp [hgwait])
  replace hsteps := hsteps.trans (if_neg hnowait)
  refine ⟨fun p hp hopen => hchecked _ (hsteps.trans (if_pos (unsealed_iff.2 ⟨p, hp, hopen⟩))), fun hsealed => ?sealed⟩
  have hnotopen : ¬s.popRequest.unsealed kind = true := by
    rw [unsealed_iff]
    rintro ⟨p, hp, hopen⟩
    exact hopen (hsealed p hp)
  replace hsteps := hsteps.trans (if_neg hnotopen)
  refine ⟨fun ⟨l, r, hl, howned⟩ => hchecked _ (hsteps.trans (if_pos ?_)), fun hfree ⟨l, hl⟩ =>
    hchecked _ (hsteps.trans ((if_neg ?_).trans (if_pos ?_)))⟩
  · rw [Bool.not_eq_true', ← Bool.not_eq_true, outputsFree_iff]
    exact fun hall => howned (hall l r hl)
  · rw [Bool.not_eq_true', Bool.not_eq_false, outputsFree_iff]
    exact hfree
  · rw [Bool.not_eq_true', ← Bool.not_eq_true, claimsFit_iff]
    exact fun hall => absurd (hall l) (Nat.not_le.2 hl)

/-! ### A DEFINE_TASK that passes (R6) -/

theorem define_popRequest (s : State) (k : Slot) (c : Common) (kind : KindParams) :
    s.popRequest.define k c kind = (s.define k c kind).popRequest := by
  unfold State.define State.recount
  cases kind.program? <;> rfl

theorem nodup_of_recordOf? {p : List Byte} (h : recordOf? k p = some (c, kind)) :
    ((outputsOf c kind).map Prod.fst).Nodup := by
  simp only [recordOf?, require, Option.bind_eq_bind, Option.bind_eq_some_iff] at h
  obtain ⟨c', -, kind', -, u, hu, heq⟩ := h
  cases heq
  simpa using hu

/-- Settles O21: past its checks DEFINE_TASK is `State.define`, told block by block (R6). -/
theorem defineTaskTakesEffectWhole : Obligations.DefineTaskTakesEffectWhole := by
  intro s f rest k c kind h hlen hk ht hf hprogram hfree hclaims
  have hserve : serveDefineTask f s.popRequest = ((s.define k c kind).popRequest, Reply.ok) := by
    rw [serveDefineTask_free (s := s.popRequest) hlen hk ht, defineChecked_of_record hf, if_neg, if_neg, if_neg, if_neg,
      define_popRequest]
    · rw [Bool.not_eq_true', Bool.not_eq_false, claimsFit_iff]
      exact hclaims
    · rw [Bool.not_eq_true', Bool.not_eq_false, outputsFree_iff]
      exact hfree
    · rw [unsealed_iff]
      rintro ⟨p, hp, hopen⟩
      exact hopen (hprogram p hp).1
    · rw [waitWithoutTrigger_iff]
      rintro ⟨p, hp, htrigger, g, hg, hgwait⟩
      exact absurd ((hprogram p hp).2 htrigger g hg) (by simp [hgwait])
  refine ⟨(s.define k c kind).answered rest f .ok [], congrArg Host.Outcome.next
    (takeRequest_accepted h (State.define_link ..) hserve), ?_, fun j hj => ?_, ?_, fun l => ?_, fun l => ?_, fun l r hl => ?_,
    fun l hl => ?_, fun p => ?_, State.define_sampled .., State.define_timebase .., State.define_reports ..,
    State.define_inReset .., State.define_pending .., ?_⟩
  · exact (State.task?_define ..).trans (if_pos rfl)
  · exact (State.task?_define ..).trans (if_neg hj)
  · have hupdates : (s.define k c kind).tasks.updates = s.tasks.updates := by
      rw [State.define_tasks, State.setTask_updates]
    exact hupdates
  · have hin : ((s.define k c kind).answered rest f .ok []).lines.inputs.get l = _ := State.define_inputs s k c kind l
    rw [hin]
    refine (insertClaims_perm _ _).trans (List.perm_append_comm.trans ?_)
    exact .refl _
  · have hin : ((s.define k c kind).answered rest f .ok []).lines.inputs.get l = _ := State.define_inputs s k c kind l
    rw [hin]
  · exact State.define_outputs_named s k c kind (nodup_of_recordOf? hf) hl
  · refine State.define_outputs_other s k c kind fun hmem => ?_
    obtain ⟨⟨l', r⟩, hr, rfl⟩ := List.mem_map.1 hmem
    exact hl r hr
  · have hp : ((s.define k c kind).answered rest f .ok []).programs.get p = (s.recount kind Nat.succ).programs.get p :=
      congrArg (Bank.get · p) (State.define_programs s k c kind)
    rw [hp, State.recount_programs]
    split
    · rfl
    · rfl
  · exact congrArg (Link.answered · rest (responseTo f .ok [])) (State.define_link s k c kind)

end Sys2Proof.Machine
end

section
/-! Requests in general: a request is taken in its turn, answered once, and changes nothing when it is refused (R183, R184). -/

namespace Sys2Proof.Machine

variable {s e : State} {c : Instr} {q : Request} {f : Frame} {rest : List Frame} {x : State × Reply} {st : Status}
  {serve : Frame → State → State × Reply}

/-! ### What a service answers -/

/-- The answer is OK, or a refusal that leaves `e`. -/
def OkOrRefuses (e : State) (x : State × Reply) : Prop := x.2.status = .ok ∨ ∃ st, x = refuse e st

/-- The state a refused request of the command `c` leaves: the one found, or the one its waiting leads to (log 8). -/
def Waited (c : Instr) (s e : State) : Prop := e = s ∨ e = s.settle ∧ (c = .setTick ∨ ∃ k, s.undecided k = true)

/-- What serving the command `c` in `s` answers. -/
def Replies (c : Instr) (s : State) (x : State × Reply) : Prop := ∃ e, Waited c s e ∧ OkOrRefuses e x

theorem OkOrRefuses.ok (h : x.2.status = .ok) : OkOrRefuses e x := .inl h

theorem OkOrRefuses.refused : OkOrRefuses e (refuse e st) := .inr ⟨st, rfl⟩

theorem OkOrRefuses.ite {p : Prop} [Decidable p] {y : State × Reply} (h : OkOrRefuses e x) (g : OkOrRefuses e y) :
    OkOrRefuses e (if p then x else y) := by
  split
  exacts [h, g]

theorem OkOrRefuses.withLen {n : Nat} (h : OkOrRefuses s x) : OkOrRefuses s (withLen n f s x) := h.ite .refused

theorem OkOrRefuses.inStates {accepts : TaskState → Bool} {effect : Task → State} (t : Option Task) :
    OkOrRefuses s (inStates s accepts effect t) := by
  cases t with
  | none => exact .refused
  | some t => exact OkOrRefuses.ite (.ok rfl) .refused

theorem OkOrRefuses.replies (h : OkOrRefuses s x) : Replies c s x := ⟨s, .inl rfl, h⟩

theorem replies_ready {slots : List Slot} (h : OkOrRefuses (s.readyFor slots) x) : Replies c s x := by
  refine ⟨s.readyFor slots, ?_, h⟩
  rcases s.readyFor_eq slots with ⟨he, -⟩ | ⟨he, k, -, hk⟩
  exacts [.inl he, .inr ⟨he, .inr ⟨k, hk⟩⟩]

theorem replies_withLen {n : Nat} (h : Replies c s x) : Replies c s (withLen n f s x) := by
  unfold withLen
  split
  exacts [h, OkOrRefuses.refused.replies]

theorem replies_onSlot {act : Slot → State → Option Task → State × Reply}
    (h : ∀ k e, OkOrRefuses e (act k e (e.task? k))) : Replies c s (onSlot f s act) := by
  unfold onSlot
  split
  exacts [OkOrRefuses.refused.replies, replies_ready (h _ _)]

theorem okOrRefuses_openWith {mode : ReportQueue → ReportQueue} : OkOrRefuses s (openWith mode f s) :=
  OkOrRefuses.ite (.ok rfl) .refused

theorem okOrRefuses_onNamed {effect : Seq → ReportQueue → ReportQueue} : OkOrRefuses s (onNamed f s effect) :=
  (OkOrRefuses.ite .refused (.ite (.ok rfl) .refused)).withLen

theorem okOrRefuses_setOutputWith {effect : Output → Output} : OkOrRefuses s (setOutputWith effect f s) := by
  unfold setOutputWith
  split
  exacts [.refused, .ite .refused (.ok rfl)]

theorem replies_setTick : Replies .setTick s (serveSetTick f s) := by
  refine replies_withLen ?_
  split
  · exact OkOrRefuses.refused.replies
  · exact ⟨s.settle, .inr ⟨rfl, .inl rfl⟩, .ite .refused (.ite .refused (.ok rfl))⟩

theorem okOrRefuses_defineTask : OkOrRefuses s (serveDefineTask f s) := by
  refine OkOrRefuses.ite ?_ .refused
  split
  · exact .refused
  · refine OkOrRefuses.ite .refused ?_
    unfold defineChecked
    split
    · exact .refused
    · exact .ite .refused (.ite .refused (.ite .refused (.ite .refused (.ok rfl))))

theorem okOrRefuses_setPosition (k : Slot) (e : State) (v : Position) (t : Option Task) :
    OkOrRefuses e (setPositionOn v k e t) := by
  unfold setPositionOn
  split
  · exact .refused
  · split
    exacts [.ok rfl, .refused]

/-- Every service answers OK, or refuses and leaves what it found or waited for. -/
theorem replies_of_service (h : serviceOf c = some serve) : Replies c s (serve f s) := by
  cases c <;> cases h
  case getIdentity => exact (OkOrRefuses.ok rfl).withLen.replies
  case getLinkStatus =>
    refine OkOrRefuses.replies (OkOrRefuses.withLen ?_)
    split
    exacts [.refused, .ok rfl]
  case resetDeviceTasks => exact OkOrRefuses.replies (.ok rfl)
  case openSessionClean => exact okOrRefuses_openWith.replies
  case openSessionResume => exact okOrRefuses_openWith.replies
  case closeSession =>
    refine OkOrRefuses.replies (OkOrRefuses.withLen ?_)
    split
    exacts [.refused, .ok rfl]
  case ackReports => exact okOrRefuses_onNamed.replies
  case resendReports => exact okOrRefuses_onNamed.replies
  case setTick => exact replies_setTick
  case getTime => exact (OkOrRefuses.ok rfl).withLen.replies
  case configInput =>
    refine OkOrRefuses.replies (OkOrRefuses.withLen ?_)
    split
    exacts [.refused, .ite (.ok rfl) .refused]
  case configOutput =>
    refine OkOrRefuses.replies (OkOrRefuses.withLen ?_)
    split
    exacts [.ite (.ok rfl) .refused, .refused]
  case setOutputActive => exact okOrRefuses_setOutputWith.replies
  case setOutputIdle => exact okOrRefuses_setOutputWith.replies
  case setOutputRelease => exact okOrRefuses_setOutputWith.replies
  case getLines =>
    refine replies_withLen ?_
    split
    exacts [OkOrRefuses.refused.replies, replies_ready (slots := indices 16) (.ok rfl)]
  case loadProgram =>
    refine OkOrRefuses.replies (.ite ?_ .refused)
    split
    exacts [.refused, .ite .refused (.ite .refused (.ok rfl))]
  case appendProgram =>
    refine OkOrRefuses.replies (.ite ?_ .refused)
    split
    exacts [.refused, .ite .refused (.ite .refused (.ite .refused (.ok rfl)))]
  case eraseProgram =>
    refine OkOrRefuses.replies (OkOrRefuses.withLen ?_)
    split
    exacts [.refused, .ite .refused (.ok rfl)]
  case getProgram =>
    refine OkOrRefuses.replies (OkOrRefuses.withLen ?_)
    split
    exacts [.refused, .ite .refused (.ok rfl)]
  case defineTask => exact okOrRefuses_defineTask.replies
  case deleteTask => exact replies_withLen (replies_onSlot fun _ _ => .inStates _)
  case armTask => exact replies_withLen (replies_onSlot fun _ _ => .inStates _)
  case disarmTask => exact replies_withLen (replies_onSlot fun _ _ => .inStates _)
  case startTask => exact replies_withLen (replies_onSlot fun _ _ => .inStates _)
  case startGroup turns => exact replies_withLen (replies_ready (.ite .refused (.ite (.ok rfl) .refused)))
  case stopTaskGraceful => exact replies_onSlot fun _ _ => .inStates _
  case stopTaskAbort => exact replies_onSlot fun _ _ => .inStates _
  case queryTask => exact replies_withLen (replies_onSlot fun _ _ => .ok rfl)
  case readCount => exact replies_withLen (replies_onSlot fun _ _ => .ok rfl)
  case setPosition => exact replies_withLen (replies_onSlot fun k e => okOrRefuses_setPosition k e _ _)
  case unknownRequest => exact OkOrRefuses.refused.replies
  case setOutput => exact OkOrRefuses.refused.withLen.replies
  case stopTask => exact OkOrRefuses.refused.withLen.replies
  case resetDevice => exact OkOrRefuses.refused.withLen.replies
  case openSession => exact OkOrRefuses.refused.withLen.replies

/-! ### The answer -/

/-- A service leaves the queues of the link to the answer. -/
theorem service_queues (h : serviceOf c = some serve) :
    (serve f s).1.link.responses = s.link.responses ∧ (serve f s).1.link.requests = s.link.requests := by
  rcases (served_of_service (s := s) (f := f) h).link with hl | hl | hl <;> rw [hl] <;> exact ⟨rfl, rfl⟩

/-- The answer overwrites the queue of requests. -/
theorem answered_popRequest (d : State) (st : Status) (data : List Byte) :
    d.popRequest.answered rest f st data = d.answered rest f st data := rfl

theorem waited_popRequest (h : Waited c s.popRequest e) : ∃ d, Waited c s d ∧ e = d.popRequest := by
  rcases h with rfl | ⟨rfl, hc⟩
  · exact ⟨s, .inl rfl, rfl⟩
  · exact ⟨s.settle, .inr ⟨rfl, hc⟩, settle_popRequest s⟩

theorem Waited.link (h : Waited c s e) : e.link = s.link := by
  rcases h with rfl | ⟨rfl, -⟩
  exacts [rfl, s.settle_outside.link]

/-- Settles O7: without its request a row takes nothing; with it the service answers once, and leaves what it found or waited
for where it refuses. -/
theorem requestsAreTakenInTurnAndAnsweredOnce : Obligations.RequestsAreTakenInTurnAndAnsweredOnce := by
  refine ⟨fun c q s hc hnot => ?nothing, fun c q s f rest hc hq h => ?answered⟩
  case nothing =>
    by_cases hq : q = .resetDeviceFull
    · subst hq
      cases c <;> cases hc
      refine congrArg Host.Outcome.next ?_
      unfold resetDeviceFull
      split
      · rfl
      · next f hf =>
        refine if_neg fun hrow => hnot ?_
        obtain ⟨rest, h⟩ := taking_iff.2 ⟨hf, hrow⟩
        exact ⟨f, rest, h⟩
    · obtain ⟨serve, -, hexec⟩ := exec_request s hc hq
      rw [hexec, takeRequest_not_taking hnot]
  case answered =>
    obtain ⟨serve, hserve, hexec⟩ := exec_request s hc hq
    obtain ⟨hresponses, hrequests⟩ := service_queues (s := s.popRequest) (f := f) hserve
    obtain ⟨e, hwaited, hreply⟩ := replies_of_service (s := s.popRequest) (f := f) hserve
    obtain ⟨d, hd, rfl⟩ := waited_popRequest hwaited
    have hanswer : exec c s = .next ((serve f s.popRequest).1.answered rest f (serve f s.popRequest).2.status
        (serve f s.popRequest).2.data) := by
      rw [hexec, takeRequest_taking h, respond_eq_answered _ (hrequests.trans h.pop_requests)]
    rcases hreply with hok | ⟨st, hrefused⟩
    · exact ⟨_, _, _, hanswer, hresponses, fun hne => absurd hok hne⟩
    · rw [hrefused] at hanswer
      refine ⟨d, st, [], ?_, by rw [hd.link], fun _ => ⟨rfl, hd⟩⟩
      rw [hanswer]
      exact congrArg Host.Outcome.next (answered_popRequest d st [])

end Sys2Proof.Machine
end

section
/-! The codes of the link: the CRC of a good frame, the frame received whole, and segments read back (R174 to R176, R181, R198). -/

namespace Sys2Proof.Machine

variable {s : State} {l : Link} {c : BitVec 16} {b hi lo : Byte} {g : Segment} {rest : List Byte}

/-! ### The CRC (R175) -/

theorem crcShift_of_msb (h : c.msb = false) : crcShift c = c <<< 1 := by simp [crcShift, h]

/-- The bit shifted out stands in bit 0. -/
theorem getLsbD_zero_crcShift (c : BitVec 16) : (crcShift c).getLsbD 0 = c.msb := by
  unfold crcShift
  split
  next h => simp [h]
  next h => simp [h]

theorem shiftLeft_one_inj {x y : BitVec 16} (hmsb : x.msb = y.msb) (h : x <<< 1 = y <<< 1) : x = y := by
  refine BitVec.eq_of_getLsbD_eq fun i hi => ?_
  by_cases htop : i = 15
  · subst htop
    exact hmsb
  · have hbit := congrArg (BitVec.getLsbD · (i + 1)) h
    have hlt : i + 1 < 16 := by omega
    rw [BitVec.getLsbD_eq_getElem hi, BitVec.getLsbD_eq_getElem hi]
    simpa [BitVec.getLsbD_shiftLeft, hlt] using hbit

theorem crcShift_injective : Function.Injective crcShift := by
  intro x y h
  have hmsb : x.msb = y.msb := by rw [← getLsbD_zero_crcShift, ← getLsbD_zero_crcShift, h]
  refine shiftLeft_one_inj hmsb ?_
  unfold crcShift at h
  rw [hmsb] at h
  split at h
  · exact (BitVec.xor_left_inj _).1 h
  · exact h

/-- The eight shifts of a byte. -/
def crcShifts (c : BitVec 16) : BitVec 16 :=
  crcShift (crcShift (crcShift (crcShift (crcShift (crcShift (crcShift (crcShift c)))))))

theorem crcByte_eq (c : BitVec 16) (b : Byte) : crcByte c b = crcShifts (c ^^^ (b.setWidth 16 <<< 8)) := rfl

theorem crcShifts_injective : Function.Injective crcShifts := by
  have h := crcShift_injective
  exact h.comp (h.comp (h.comp (h.comp (h.comp (h.comp (h.comp h))))))

theorem crcShift_byte (b : Byte) {n : Nat} (hn : n < 8) :
    crcShift (b.setWidth 16 <<< n) = b.setWidth 16 <<< (n + 1) := by
  have hmsb : (b.setWidth 16 <<< n).msb = false := by
    rw [BitVec.msb_eq_getLsbD_last, BitVec.getLsbD_shiftLeft, BitVec.getLsbD_setWidth]
    have hout : b.getLsbD (15 - n) = false := BitVec.getLsbD_of_ge b _ (by omega)
    simp [hout]
  rw [crcShift_of_msb hmsb, ← BitVec.shiftLeft_add]

/-- A byte below is only moved up. -/
theorem crcShifts_byte (b : Byte) : crcShifts (b.setWidth 16) = b.setWidth 16 <<< 8 := by
  have hzero : b.setWidth 16 = b.setWidth 16 <<< 0 := by simp
  rw [hzero, crcShifts, crcShift_byte b (by omega), crcShift_byte b (by omega), crcShift_byte b (by omega),
    crcShift_byte b (by omega), crcShift_byte b (by omega), crcShift_byte b (by omega), crcShift_byte b (by omega),
    crcShift_byte b (by omega)]
  simp

theorem append_eq_xor (hi lo : Byte) : (hi ++ lo : BitVec 16) = (hi.setWidth 16 <<< 8) ^^^ lo.setWidth 16 := by
  refine BitVec.eq_of_getLsbD_eq fun i hi' => ?_
  rw [BitVec.getLsbD_append, BitVec.getLsbD_xor, BitVec.getLsbD_shiftLeft, BitVec.getLsbD_setWidth,
    BitVec.getLsbD_setWidth]
  by_cases h : i < 8
  · simp [h, hi']
  · have hlo : lo.getLsbD i = false := BitVec.getLsbD_of_ge lo _ (by omega)
    simp [h, hi', hlo]
    omega

theorem crcOf_append_two (body : List Byte) (hi lo : Byte) :
    crcOf (body ++ [hi, lo]) = crcByte (crcByte (crcOf body) hi) lo := by
  simp [crcOf, List.foldl_append]

/-- Settles O3: the eight shifts are injective and move the low byte up, so that the last two bytes clear the CRC exactly where
they are it. -/
theorem crcOverAGoodFrameIsZero : Obligations.CrcOverAGoodFrameIsZero := by
  refine ⟨by decide +kernel, fun body hi lo => ?_⟩
  have hzero : crcShifts 0#16 = 0#16 := by decide
  change _ = 0#16 ↔ _
  rw [crcOf_append_two, crcByte_eq, crcByte_eq, ← hzero, crcShifts_injective.eq_iff, BitVec.xor_eq_zero_iff,
    ← crcShifts_byte lo, crcShifts_injective.eq_iff, append_eq_xor]
  constructor
  · intro h
    rw [← h, ← BitVec.xor_assoc, BitVec.xor_comm _ (crcOf body), BitVec.xor_assoc, BitVec.xor_self, BitVec.xor_zero]
  · intro h
    rw [← h, BitVec.xor_comm, ← BitVec.xor_assoc, BitVec.xor_self, BitVec.zero_xor]

/-! ### A frame received whole (R176, R181) -/

/-- Bytes received one after another, outside a reset. -/
theorem runCommands_rxBytes (bytes : List Byte) (hs : s.inReset = none) :
    runCommands (bytes.map Instr.rxByte) s = some { s with link := bytes.foldl Link.take s.link } := by
  induction bytes generalizing s with
  | nil => rfl
  | cons b bytes ih =>
    rw [List.map_cons, runCommands, exec_rxByte hs]
    exact ih (s := { s with link := s.link.take b }) hs

/-- TYPE, TAG and payload bytes join the frame and its CRC. -/
theorem foldl_take_body (more : List Byte) {len : Nat} {bytes : List Byte} (hl : l.receiver = .body len bytes c)
    (hlen : bytes.length + more.length ≤ len + 2) :
    more.foldl Link.take l = { l with receiver := .body len (bytes ++ more) (more.foldl crcByte c) } := by
  induction more generalizing l bytes c with
  | nil => simp [← hl]
  | cons b more ih =>
    have hlt : bytes.length < len + 2 := by
      rw [List.length_cons] at hlen
      omega
    have htake : l.take b = { l with receiver := .body len (bytes ++ [b]) (crcByte c b) } := by
      rw [Link.take, hl]
      exact if_pos hlt
    have hleft : (bytes ++ [b]).length + more.length ≤ len + 2 := by
      rw [List.length_append, List.length_singleton]
      rw [List.length_cons] at hlen
      omega
    rw [List.foldl_cons, htake, ih (l := { l with receiver := .body len (bytes ++ [b]) (crcByte c b) }) rfl hleft]
    simp

/-- The two CRC bytes end the frame. -/
theorem foldl_take_crc {len : Nat} {bytes : List Byte} (hl : l.receiver = .body len bytes c)
    (hlen : bytes.length = len + 2) (hcrc : hi ++ lo = c) :
    [hi, lo].foldl Link.take l = { l with receiver := .hunting }.admitFrame (frameOf len (bytes ++ [hi])) := by
  have hfirst : l.take hi = { l with receiver := .body len (bytes ++ [hi]) c } := by
    rw [Link.take, hl]
    exact (if_neg (by omega)).trans (if_pos hlen)
  have hbyte : (bytes ++ [hi]).getD (len + 2) 0 = hi := by simp [← hlen]
  have hjudge : Link.take { l with receiver := .body len (bytes ++ [hi]) c } lo =
      Link.judge { l with receiver := .body len (bytes ++ [hi]) c } len (bytes ++ [hi]) c lo :=
    (if_neg (by rw [List.length_append, List.length_singleton]; omega)).trans
      (if_neg (by rw [List.length_append, List.length_singleton]; omega))
  rw [List.foldl_cons, hfirst, List.foldl_cons, hjudge, List.foldl_nil, judge_eq, if_neg]
  rw [hbyte, hcrc]
  simp

theorem extract_append (c : BitVec 16) : (c.extractLsb' 8 8 ++ c.extractLsb' 0 8 : BitVec 16) = c := by
  refine BitVec.eq_of_getLsbD_eq fun i hi => ?_
  rw [BitVec.getLsbD_append, BitVec.getLsbD_extractLsb', BitVec.getLsbD_extractLsb']
  by_cases h : i < 8
  · simp [h]
  · have hlt : i - 8 < 8 := by omega
    have hadd : 8 + (i - 8) = i := by omega
    simp [h, hlt, hadd]

/-- Settles O4: SYNC and LEN open the frame, its bytes fill it, and the CRC lets it pass. -/
theorem receivedFrameIsAdmittedWhole : Obligations.ReceivedFrameIsAdmittedWhole := by
  intro s type tag payload hs hhunting hlen
  rw [runCommands_rxBytes _ hs]
  refine congrArg (fun l => some { s with link := l }) ?_
  have hn : (BitVec.ofNat 8 payload.length).toNat = payload.length := by
    rw [BitVec.toNat_ofNat]
    omega
  have hsync : s.link.take 0x5A = { s.link with receiver := .length } := by
    rw [Link.take, hhunting]
    rfl
  have hopen : Link.take { s.link with receiver := .length } (BitVec.ofNat 8 payload.length) =
      { s.link with receiver := .body payload.length [] (crcOf [BitVec.ofNat 8 payload.length]) } := by
    refine (takeLen_eq _ _).trans ((if_pos (hn.symm ▸ hlen)).trans ?_)
    rw [hn]
  have hlayout : frameLayout type tag payload =
      0x5A :: BitVec.ofNat 8 payload.length :: ((type :: tag :: payload) ++
        [(crcOf (BitVec.ofNat 8 payload.length :: type :: tag :: payload)).extractLsb' 8 8,
          (crcOf (BitVec.ofNat 8 payload.length :: type :: tag :: payload)).extractLsb' 0 8]) := rfl
  rw [hlayout, List.foldl_cons, hsync, List.foldl_cons, hopen, List.foldl_append,
    foldl_take_body (type :: tag :: payload) (len := payload.length) (bytes := []) rfl (by simp),
    foldl_take_crc (len := payload.length) (bytes := type :: tag :: payload) rfl (by simp)]
  · rw [admitFrame_eq]
    have hframe : frameOf payload.length (type :: tag :: payload ++
        [(crcOf (BitVec.ofNat 8 payload.length :: type :: tag :: payload)).extractLsb' 8 8]) =
        { type := type, tag := tag, payload := payload } := by
      simp [frameOf, byteAt]
    have hsame : { s.link with receiver := Receiver.hunting } = s.link := by rw [← hhunting]
    rw [hframe, hsame]
  · exact extract_append _

/-! ### Segments (R198) -/

theorem segmentLevel?_congr {x y : Byte} (h : x.extractLsb' 0 2 = y.extractLsb' 0 2) : segmentLevel? x = segmentLevel? y := by
  rw [segmentLevel?, segmentLevel?, h]

theorem natAt_three_eq (control : Byte) {n : Nat} (h : n < 16777216) (rest : List Byte) :
    natAt (control :: (three n ++ rest)) 1 3 = n := by
  simp [natAt, beNat, three, two]
  omega

/-- The control byte as it is laid out. -/
def controlByte (g : Segment) : Byte :=
  BitVec.ofNat 8 ((if g.level = .active then 1 else 0) + (if g.reportEnd then 4 else 0) + (if g.wait then 8 else 0))

theorem control_read (g : Segment) :
    segmentLevel? (controlByte g) = some g.level ∧ (controlByte g).getLsbD 2 = g.reportEnd ∧
      (controlByte g).getLsbD 3 = g.wait := by
  unfold controlByte
  generalize g.level = level, g.reportEnd = reportEnd, g.wait = wait
  cases level <;> cases reportEnd <;> cases wait <;> decide

theorem segmentOf?_append (hmin : 1 ≤ g.duration) (hmax : g.duration ≤ 16777215) (rest : List Byte) :
    segmentOf? (segmentLayout g ++ rest) = some g := by
  have hnat : natAt (segmentLayout g ++ rest) 1 3 = g.duration := natAt_three_eq _ (by omega) rest
  obtain ⟨hlevel, hend, hwait⟩ := control_read g
  have hbyte : byteAt (segmentLayout g ++ rest) 0 = controlByte g := rfl
  rw [segmentOf?, hbyte, hlevel, hnat, hend, hwait]
  exact if_neg (by omega)

/-- Settles O6: a segment is read from the head of its bytes, and only bits 3 to 0 of the control byte are read. -/
theorem segmentsAreReadAsCoded : Obligations.SegmentsAreReadAsCoded := by
  refine ⟨fun segments h => ?read, fun control a b c => ?ignored⟩
  case read =>
    induction segments with
    | nil => rfl
    | cons g segments ih =>
      obtain ⟨hmin, hmax⟩ := h g (by simp)
      have hdrop : (segmentLayout g ++ segments.flatMap segmentLayout).drop 4 = segments.flatMap segmentLayout := rfl
      rw [List.length_cons, List.flatMap_cons, segmentsOf?, segmentOf?_append hmin hmax, hdrop,
        ih fun g' hg' => h g' (by simp [hg'])]
  case ignored =>
    have hbits : ∀ i < 4, (control &&& 0x0F).getLsbD i = control.getLsbD i := fun i hi => by
      rw [BitVec.getLsbD_and]
      interval_cases i <;> simp
    have hlevel : (control &&& 0x0F).extractLsb' 0 2 = control.extractLsb' 0 2 := by
      refine BitVec.eq_of_getLsbD_eq fun i hi => ?_
      rw [BitVec.getLsbD_extractLsb', BitVec.getLsbD_extractLsb', Nat.zero_add, hbits i (by omega)]
    have h2 := hbits 2 (by omega)
    have h3 := hbits 3 (by omega)
    simp only [segmentOf?, byteAt, List.getD_cons_zero, segmentLevel?_congr hlevel, h2, h3]
    rfl

end Sys2Proof.Machine
end

section
/-! A sample instant conditions every input and forms the views of the slots, and a tick boundary raises device time and the tick
phases (R33, R34, R37, R47, R50, R56, R57). -/

namespace Sys2Proof.Machine

variable {s : State} {u v : LineUnit} {k : Slot} {l : InLine} {c : Cond} {now : Time} {x : View} {levels : Bank Level 12}

/-! ### The conditioners (R33, R47) -/

theorem sampleAll_input (u : LineUnit) (levels : Bank Level 12) (l : InLine) :
    (u.sampleAll levels).inputs.get l =
      if u.sampled then (u.inputs.get l).sample (levels.get l) else (u.inputs.get l).firstSample (levels.get l) := by
  simp [LineUnit.sampleAll]

/-- An input after a sample instant, field by field. -/
theorem sampleAll_input_eq (u : LineUnit) (levels : Bank Level 12) (l : InLine) :
    (u.sampleAll levels).inputs.get l =
      { u.inputs.get l with
        raw := levels.get l
        cond :=
          if u.sampled = false then (u.inputs.get l).polarity.condOf (levels.get l)
          else if (u.inputs.get l).polarity.condOf (levels.get l) ≠ (u.inputs.get l).cond ∧
              (u.inputs.get l).filter ≤ (u.inputs.get l).candidate.getD 0 then
            (u.inputs.get l).cond.other
          else (u.inputs.get l).cond
        candidate :=
          if u.sampled = true ∧ (u.inputs.get l).polarity.condOf (levels.get l) ≠ (u.inputs.get l).cond ∧
              (u.inputs.get l).candidate.getD 0 < (u.inputs.get l).filter then
            some ((u.inputs.get l).candidate.getD 0 + 1)
          else none } := by
  rw [sampleAll_input]
  cases hs : u.sampled with
  | false => simp [Input.firstSample]
  | true =>
    by_cases hc : (u.inputs.get l).polarity.condOf (levels.get l) = (u.inputs.get l).cond
    · simp [sample_same hc, hc]
    · rw [if_pos rfl, sample_other hc]
      by_cases hf : (u.inputs.get l).filter ≤ (u.inputs.get l).candidate.getD 0
      · simp [hc, hf]
      · simp [hc, hf, Nat.lt_of_not_le hf]

/-! ### The views (R34) -/

theorem mem_claimedLines : l ∈ u.claimedLines k ↔ ∃ r, (k, r) ∈ (u.inputs.get l).claims := by
  simp [LineUnit.claimedLines, Input.claimedBy]

theorem mem_changedLines :
    l ∈ changedLines u v ↔ u.sampled = true ∧ (u.inputs.get l).cond ≠ (v.inputs.get l).cond := by
  unfold changedLines
  split
  next h => simp [h]
  next h => simp [h]

/-- The lines of slot `k` that changed. -/
def changedFor (u v : LineUnit) (k : Slot) : List InLine :=
  (v.claimedLines k).filter fun l => (changedLines u v).contains l

theorem mem_changedFor :
    l ∈ changedFor u v k ↔
      (∃ r, (k, r) ∈ (v.inputs.get l).claims) ∧ u.sampled = true ∧ (u.inputs.get l).cond ≠ (v.inputs.get l).cond := by
  rw [changedFor, List.mem_filter, mem_claimedLines, List.contains_iff_mem, mem_changedLines]

theorem viewFor_eq (u v : LineUnit) (now : Time) (k : Slot) :
    viewFor u v now k =
      if changedFor u v k = [] then none
      else
        some
          { changes := (changedFor u v k).map fun l => (l, (v.inputs.get l).cond)
            levels := (v.claimedLines k).map fun l => (l, (v.inputs.get l).cond)
            time := now } := by
  simp only [viewFor, List.isEmpty_iff]
  rfl

theorem viewFor_eq_none :
    viewFor u v now k = none ↔
      u.sampled = false ∨
        ∀ l, (∃ r, (k, r) ∈ (v.inputs.get l).claims) → (v.inputs.get l).cond = (u.inputs.get l).cond := by
  have hnone : viewFor u v now k = none ↔ changedFor u v k = [] := by
    rw [viewFor_eq]
    split
    next h => simp [h]
    next h => simp [h]
  rw [hnone, List.eq_nil_iff_forall_not_mem]
  simp only [mem_changedFor]
  constructor
  · intro h
    by_cases hs : u.sampled = true
    · exact .inr fun l hl => by_contra fun hne => h l ⟨hl, hs, Ne.symm hne⟩
    · exact .inl (by simpa using hs)
  · rintro (hs | h) l ⟨hl, hs', hne⟩
    · simp [hs] at hs'
    · exact hne (h l hl).symm

/-- What a view tells: the changes on the lines the slot claims, and the levels of these lines. -/
theorem viewFor_eq_some (h : viewFor u v now k = some x) :
    x.time = now ∧
      (∀ l c, (l, c) ∈ x.changes ↔
        (∃ r, (k, r) ∈ (v.inputs.get l).claims) ∧ (u.inputs.get l).cond ≠ c ∧ (v.inputs.get l).cond = c) ∧
      ∀ l c, (l, c) ∈ x.levels ↔ (∃ r, (k, r) ∈ (v.inputs.get l).claims) ∧ (v.inputs.get l).cond = c := by
  rw [viewFor_eq] at h
  split at h
  · cases h
  next hne =>
    obtain rfl := Option.some.inj h
    obtain ⟨m, hm⟩ := List.exists_mem_of_ne_nil _ hne
    obtain ⟨-, hs, -⟩ := mem_changedFor.1 hm
    refine ⟨rfl, fun l c => ?_, fun l c => ?_⟩
    · simp only [List.mem_map, mem_changedFor, Prod.mk.injEq]
      constructor
      · rintro ⟨l, ⟨hl, -, hc⟩, rfl, rfl⟩
        exact ⟨hl, hc, rfl⟩
      · rintro ⟨hl, hc, rfl⟩
        exact ⟨l, ⟨hl, hs, hc⟩, rfl, rfl⟩
    · simp only [List.mem_map, mem_claimedLines, Prod.mk.injEq]
      constructor
      · rintro ⟨l, hl, rfl, rfl⟩
        exact ⟨hl, rfl⟩
      · rintro ⟨hl, rfl⟩
        exact ⟨l, hl, rfl, rfl⟩

/-! ### The sample instant -/

theorem updates_any_iff : s.tasks.updates.cells.any Option.isSome = true ↔ ∃ k, s.tasks.updates.get k ≠ none := by
  rw [Bank.any_iff]
  simp only [Option.isSome_iff_ne_none]

theorem sampleInputs_waits (h : s.inReset ≠ none ∨ ∃ k, s.tasks.updates.get k ≠ none) : sampleInputs levels s = s := by
  rw [sampleInputs, if_pos]
  rwa [Bool.or_eq_true, updates_any_iff, Option.isSome_iff_ne_none]

theorem sampleInputs_eq (hs : s.inReset = none) (hu : ∀ k, s.tasks.updates.get k = none) :
    sampleInputs levels s =
      { s.settle with
        tasks :=
          { s.settle.tasks with
            updates := Bank.build 16 (viewFor s.settle.lines (s.settle.lines.sampleAll levels) s.settle.timebase.time) }
        lines := s.settle.lines.sampleAll levels } := by
  rw [sampleInputs, if_neg]
  rw [Bool.or_eq_true, updates_any_iff, Option.isSome_iff_ne_none]
  rintro (h | ⟨k, h⟩)
  exacts [h hs, h (hu k)]

/-- Settles O34: each input by `sampleAll_input_eq`, each slot's view by `viewFor_eq_none` and `viewFor_eq_some`. -/
theorem sampleInstantFormsChangesAndViews : Obligations.SampleInstantFormsChangesAndViews := by
  intro s levels
  refine ⟨fun h => congrArg Host.Outcome.next (sampleInputs_waits h), fun hs hu => ⟨sampleInputs levels s, rfl, ?_⟩⟩
  have hout := s.settle_outside
  have hinputs : s.settle.lines.inputs = s.lines.inputs := hout.blocks.inputs
  have hsampled : s.settle.lines.sampled = s.lines.sampled := hout.blocks.sampled
  have hinput : ∀ l, (s.settle.lines.sampleAll levels).inputs.get l = _ := sampleAll_input_eq s.settle.lines levels
  have hclaims : ∀ l, ((s.settle.lines.sampleAll levels).inputs.get l).claims = (s.lines.inputs.get l).claims := fun l => by
    rw [hinput, hinputs]
  rw [sampleInputs_eq hs hu]
  refine ⟨fun l => ?input, fun k => ⟨?none, fun v hv => ?some⟩, rfl, rfl, rfl, hout.blocks.timebase, hout.blocks.programs,
    rfl, s.settle_events, hout.link, hout.blocks.inReset, hout.blocks.pending⟩
  case input =>
    rw [hinput, hinputs, hsampled]
  case none =>
    simp only [Bank.get_build]
    rw [viewFor_eq_none, hsampled]
    simp only [hclaims, hinputs]
  case some =>
    simp only [Bank.get_build] at hv
    obtain ⟨htime, hchanges, hlevels⟩ := viewFor_eq_some hv
    simp only [hclaims, hinputs] at hchanges hlevels
    exact ⟨htime.trans (congrArg Timebase.time hout.blocks.timebase), hchanges, hlevels⟩

/-! ### The tick boundary (R50, R56, R57) -/

theorem tick_waits (h : s.inReset ≠ none ∨ s.instantOpen = true) : tick s = s := by
  rw [tick, if_pos]
  rwa [Bool.or_eq_true, Option.isSome_iff_ne_none]

theorem tick_eq (hs : s.inReset = none) (h : ¬s.instantOpen = true) :
    tick s =
      { s.settle with
        tasks := { s.settle.tasks with slots := s.settle.tasks.slots.map (Option.map Task.ticked) }
        timebase := { s.settle.timebase with time := s.settle.timebase.time + 1 } } := by
  rw [tick, if_neg]
  rw [Bool.or_eq_true, Option.isSome_iff_ne_none]
  rintro (h' | h')
  exacts [h' hs, h h']

/-- The record after a tick boundary, told by its clock. -/
theorem ticked_eq (a : Task) :
    some a.ticked =
      (match a.common.clock with
       | .line _ => some a
       | .timebase d =>
         if (a.state = .running ∨ a.state = .stopping) ∧ a.held = false then
           if a.tickPhase + 1 < d then some { a with tickPhase := a.tickPhase + 1 }
           else some { a with tickPhase := 0, clockDue := true }
         else some a) := by
  cases hc : a.common.clock with
  | line l => exact congrArg some (ticked_line hc)
  | timebase d =>
    dsimp only
    split
    next h =>
      rw [ticked_working hc (works_iff.2 h)]
      by_cases hd : a.tickPhase + 1 < d
      · rw [if_neg (Nat.not_le.2 hd), if_pos hd]
      · rw [if_pos (Nat.le_of_not_lt hd), if_neg hd]
    next h => rw [ticked_idle (by rwa [← Bool.not_eq_true, works_iff])]

/-- Settles O35: an open instant or a hard reset keeps the tick boundary off, and one that falls is `ticked_eq` of each
record. -/
theorem tickBoundaryCountsTimeAndPhases : Obligations.TickBoundaryCountsTimeAndPhases := by
  intro s
  refine ⟨fun hs hupdates htasks hmarks => ⟨tick s, rfl, ?_⟩, fun h => congrArg Host.Outcome.next (tick_waits ?_)⟩
  · have hclosed : ¬s.instantOpen = true := by
      rw [instantOpen_iff]
      rintro (⟨k, hk⟩ | ⟨k, a, ha, hdue⟩ | ⟨l, hl⟩)
      · exact hk (hupdates k)
      · exact hdue.elim (htasks k a ha).1 (htasks k a ha).2
      · exact hmarks l hl
    have hout := s.settle_outside
    rw [tick_eq hs hclosed]
    refine ⟨by rw [hout.blocks.timebase], fun k => ?_, hout.updates, rfl, hout.blocks.programs, rfl, s.settle_events,
      hout.link, hout.blocks.inReset, hout.blocks.pending⟩
    have hslot : State.task?
        { s.settle with
          tasks := { s.settle.tasks with slots := s.settle.tasks.slots.map (Option.map Task.ticked) }
          timebase := { s.settle.timebase with time := s.settle.timebase.time + 1 } } k =
        (s.settle.task? k).map Task.ticked := Bank.get_map ..
    rw [hslot]
    cases s.settle.task? k with
    | none => rfl
    | some a => exact ticked_eq a
  · rw [instantOpen_iff]
    exact h

end Sys2Proof.Machine
end

section
/-! The task record of R197: one the manual allows is read back whole, and only such records are read (R5, R196, R197). -/

namespace Sys2Proof.Machine

variable {k : Slot} {c : Common} {kind : KindParams} {p : List Byte} {n : Nat}

/-! ### Fields read back (R194) -/

theorem finOf?_numByte (hn : n ≤ 256) (i : Fin n) : finOf? n (numByte i).toNat = some i := by
  rw [finOf?_eq_some, numByte, BitVec.toNat_ofNat]
  omega

theorem inLineOf?_numByte (l : InLine) : inLineOf? (numByte l) = some l := finOf?_numByte (by omega) l

theorem outLineOf?_numByte (l : OutLine) : outLineOf? (numByte l) = some l := finOf?_numByte (by omega) l

theorem slotOf?_numByte (k : Slot) : slotOf? (numByte k) = some k := finOf?_numByte (by omega) k

theorem progOf?_numByte (q : Prog) : progOf? (numByte q) = some q := finOf?_numByte (by omega) q

theorem numByte_ne_absent (hn : n ≤ 255) (i : Fin n) : numByte i ≠ absentLine := by
  intro h
  have hval := congrArg BitVec.toNat h
  rw [numByte, absentLine, BitVec.toNat_ofNat] at hval
  simp at hval
  omega

theorem optField_numByte {α : Type} {g : Byte → Option α} (hn : n ≤ 255) (i : Fin n) :
    optField g (numByte i) = (g (numByte i)).map some := if_neg (numByte_ne_absent hn i)

theorem optField_inLine (l : Option InLine) : optField inLineOf? (optLineByte l) = some l := by
  cases l with
  | none => rfl
  | some l => rw [optLineByte, optField_numByte (by omega), inLineOf?_numByte]; rfl

theorem optField_outLine (l : Option OutLine) : optField outLineOf? (optLineByte l) = some l := by
  cases l with
  | none => rfl
  | some l => rw [optLineByte, optField_numByte (by omega), outLineOf?_numByte]; rfl

theorem beNat_cons (b : Byte) (bytes : List Byte) : beNat (b :: bytes) = b.toNat * 256 ^ bytes.length + beNat bytes := by
  induction bytes using List.reverseRecOn with
  | nil => simp [beNat]
  | append_singleton bytes y ih =>
    rw [← List.cons_append, beNat_append_byte, ih, beNat_append_byte, List.length_append, List.length_singleton,
      Nat.pow_succ]
    ring

theorem beNat_beBytes_mod (width v : Nat) : beNat (beBytes width v) = v % 256 ^ width := by
  induction width with
  | zero => rw [pow_zero, Nat.mod_one]; rfl
  | succ width ih =>
    rw [beBytes, beNat_cons, ih, length_beBytes, BitVec.toNat_ofNat]
    change v / 256 ^ width % 256 * 256 ^ width + v % 256 ^ width = _
    rw [Nat.mod_pow_succ, Nat.mul_comm, Nat.add_comm]

theorem beNat_beBytes (width : Nat) {v : Nat} (h : v < 256 ^ width) : beNat (beBytes width v) = v := by
  rw [beNat_beBytes_mod, Nat.mod_eq_of_lt h]

theorem flag_read (b : Bool) : looseFlag (flagByte b) = b := by cases b <;> rfl

theorem strictFlag_read (b : Bool) : strictFlag (flagByte b) = some b := by cases b <;> rfl

theorem sense_read (x : Cond) : senseOf? x.senseCode = some x := by cases x <;> rfl

theorem repeat_read (x : Repeat) : repeatOf? x.code = some x := by cases x <;> rfl

theorem policy_read (x : Policy) : policyOf? x.code = some x := by cases x <;> rfl

theorem class_read (x : ReportClass) : classOf? x.code = some x := by cases x <;> rfl

theorem spanMode_read (x : SpanMode) : spanModeOf? x.code = some x := by cases x <;> rfl

theorem resolution_read (x : Resolution) : resolutionOf? x.code = some x := by cases x <;> rfl

theorem indexAction_read (x : IndexAction) : indexActionOf? x.code = some x := by cases x <;> rfl

theorem indexPhase_read (x : Option (Cond × Cond)) : indexPhaseOf? (indexPhaseCode x) = some x := by
  cases x with
  | none => rfl
  | some x =>
    obtain ⟨a, b⟩ := x
    cases a <;> cases b <;> rfl

/-! ### The common fields read back (R5) -/

/-- The five bytes of a clock. -/
def ClockSource.bytes : ClockSource → List Byte
  | .timebase d => 0x00 :: absentLine :: beBytes 3 d
  | .line l => 0x01 :: numByte l :: beBytes 3 0

/-- The two bytes of a trigger. -/
def triggerBytes : Option Trigger → List Byte
  | some t => [numByte t.line, t.edge.senseCode]
  | none => [absentLine, 0x00]

/-- The two bytes of a start. -/
def StartWhen.bytes : StartWhen → List Byte
  | .host => [0x00, 0xFF]
  | .trigger => [0x01, 0xFF]
  | .after m => [0x02, numByte m]

/-- The two bytes of a gate. -/
def gateBytes : Option Gate → List Byte
  | some g => [numByte g.line, g.openWhen.senseCode]
  | none => [absentLine, 0x00]

/-- The three bytes of a mark. -/
def markBytes : Option Mark → List Byte
  | some m => numByte m.line :: beBytes 2 m.ticks
  | none => absentLine :: beBytes 2 0

theorem common_bytes_eq (c : Common) (kind : KindParams) :
    c.bytes kind =
      kind.code :: (c.clock.bytes ++ triggerBytes c.trigger ++ c.start.bytes ++ gateBytes c.gate ++
        [c.repeats.code, c.policy.code, c.reportClass.code, flagByte c.reportStart] ++ markBytes c.mark) := by
  unfold Common.bytes
  cases c.clock <;> cases c.trigger <;> cases c.start <;> cases c.gate <;> cases c.mark <;> rfl

theorem clock_read {x : ClockSource} (h : ∀ d, x = .timebase d → 1 ≤ d ∧ d ≤ 65536) :
    ∃ a0 a1 a2 a3 a4, x.bytes = [a0, a1, a2, a3, a4] ∧
      ∀ p, byteAt p 2 = a0 → byteAt p 3 = a1 → natAt p 4 3 = beNat [a2, a3, a4] → clockOf? p = some x := by
  cases x with
  | timebase d =>
    obtain ⟨hmin, hmax⟩ := h d rfl
    refine ⟨_, _, _, _, _, rfl, fun p h2 h3 h4 => ?_⟩
    have hd : natAt p 4 3 = d := h4.trans (beNat_beBytes 3 (by omega))
    rw [clockOf?, if_pos h2, hd, if_pos ⟨hmin, hmax⟩]
  | line l =>
    refine ⟨_, _, _, _, _, rfl, fun p h2 h3 h4 => ?_⟩
    rw [clockOf?, h2, h3, inLineOf?_numByte]
    rfl

theorem trigger_read (x : Option Trigger) :
    ∃ a0 a1, triggerBytes x = [a0, a1] ∧ ∀ p, byteAt p 7 = a0 → byteAt p 8 = a1 → triggerOf? p = some x := by
  cases x with
  | none =>
    refine ⟨_, _, rfl, fun p h7 h8 => ?_⟩
    rw [triggerOf?, h7]
    rfl
  | some t =>
    refine ⟨_, _, rfl, fun p h7 h8 => ?_⟩
    rw [triggerOf?, h7, h8, optField_numByte (by omega), inLineOf?_numByte, sense_read]
    rfl

theorem start_read {x : StartWhen} {hasTrigger : Bool} (htrigger : x = .trigger → hasTrigger = true) (hk : x ≠ .after k) :
    ∃ a0 a1, x.bytes = [a0, a1] ∧ ∀ p, byteAt p 9 = a0 → byteAt p 10 = a1 → startOf? k hasTrigger p = some x := by
  cases x with
  | host =>
    refine ⟨_, _, rfl, fun p h9 h10 => ?_⟩
    rw [startOf?, h9]
    rfl
  | trigger =>
    refine ⟨_, _, rfl, fun p h9 h10 => ?_⟩
    rw [startOf?, h9, htrigger rfl]
    rfl
  | after m =>
    refine ⟨_, _, rfl, fun p h9 h10 => ?_⟩
    have hm : m ≠ k := fun e => hk (e ▸ rfl)
    rw [startOf?, h9, h10, slotOf?_numByte]
    exact if_neg hm

theorem gate_read (x : Option Gate) :
    ∃ a0 a1, gateBytes x = [a0, a1] ∧ ∀ p, byteAt p 11 = a0 → byteAt p 12 = a1 → gateOf? p = some x := by
  cases x with
  | none =>
    refine ⟨_, _, rfl, fun p h11 h12 => ?_⟩
    rw [gateOf?, h11]
    rfl
  | some g =>
    refine ⟨_, _, rfl, fun p h11 h12 => ?_⟩
    rw [gateOf?, h11, h12, optField_numByte (by omega), inLineOf?_numByte, sense_read]
    rfl

theorem mark_read {x : Option Mark} (h : ∀ m, x = some m → 1 ≤ m.ticks ∧ m.ticks ≤ 65535) :
    ∃ a0 a1 a2, markBytes x = [a0, a1, a2] ∧
      ∀ p, byteAt p 17 = a0 → natAt p 18 2 = beNat [a1, a2] → markOf? p = some x := by
  cases x with
  | none =>
    refine ⟨_, _, _, rfl, fun p h17 h18 => ?_⟩
    rw [markOf?, h17]
    rfl
  | some m =>
    obtain ⟨hmin, hmax⟩ := h m rfl
    refine ⟨_, _, _, rfl, fun p h17 h18 => ?_⟩
    have hticks : natAt p 18 2 = m.ticks := h18.trans (beNat_beBytes 2 (by omega))
    rw [markOf?, h17, hticks, optField_numByte (by omega), outLineOf?_numByte]
    exact if_neg (by omega)

theorem commonOf?_record (h : RecordAllowed k c kind) (block : List Byte) :
    commonOf? k (numByte k :: (c.bytes kind ++ block)) = some c := by
  obtain ⟨a0, a1, a2, a3, a4, hclock, hclock'⟩ := clock_read h.divider
  obtain ⟨t0, t1, htrigger, htrigger'⟩ := trigger_read c.trigger
  obtain ⟨s0, s1, hstart, hstart'⟩ := start_read (k := k) (hasTrigger := c.trigger.isSome)
    (fun hs => Option.isSome_iff_ne_none.2 (h.triggered hs)) h.otherSlot
  obtain ⟨g0, g1, hgate, hgate'⟩ := gate_read c.gate
  obtain ⟨m0, m1, m2, hmark, hmark'⟩ := mark_read h.markLength
  rw [common_bytes_eq, hclock, htrigger, hstart, hgate, hmark, commonOf?, hclock' _ rfl rfl rfl, htrigger' _ rfl rfl]
  simp only [Option.bind_eq_bind, Option.bind_some]
  rw [hstart' _ rfl rfl, hgate' _ rfl rfl, hmark' _ rfl rfl]
  simp [byteAt, repeat_read, policy_read, class_read, flag_read]

/-! ### The kind block read back (R5) -/

section
variable (k c kind) (block : List Byte)

theorem byteAt_record_kind : byteAt (numByte k :: (c.bytes kind ++ block)) 1 = kind.code := by
  rw [common_bytes_eq]
  rfl

theorem drop_record (i : Nat) : (numByte k :: (c.bytes kind ++ block)).drop (20 + i) = block.drop i := by
  have hlen : 20 + i = ((c.bytes kind).length + i) + 1 := by
    rw [length_common_bytes]
    omega
  rw [hlen, List.drop_succ_cons, List.drop_length_add_append]

theorem natAt_record_block (i width : Nat) :
    natAt (numByte k :: (c.bytes kind ++ block)) (20 + i) width = natAt block i width := by
  rw [natAt, drop_record, natAt]

theorem byteAt_record_block (i : Nat) : byteAt (numByte k :: (c.bytes kind ++ block)) (20 + i) = byteAt block i := by
  have h := congrArg List.head? (drop_record k c kind block i)
  rw [List.head?_drop, List.head?_drop] at h
  rw [byteAt, byteAt, List.getD_eq_getElem?_getD, List.getD_eq_getElem?_getD, h]

end

/-- `p` holds `block` from offset 20 on. -/
structure HoldsBlock (p block : List Byte) : Prop where
  byte : ∀ i, byteAt p (20 + i) = byteAt block i
  nat : ∀ i width, natAt p (20 + i) width = natAt block i width

theorem natAt_beBytes (width v : Nat) (before after : List Byte) (h : v < 256 ^ width) :
    natAt (before ++ (beBytes width v ++ after)) before.length width = v := by
  rw [natAt, List.drop_left, List.take_append_of_le_length (by rw [length_beBytes]), List.take_of_length_le
    (by rw [length_beBytes]), beNat_beBytes width h]

section
variable {block : List Byte}

theorem train_read {x : TrainParams} (hp : HoldsBlock p (KindParams.pulseTrain x).bytes)
    (h : (KindParams.pulseTrain x).Allowed c) : trainOf? c p = some (.pulseTrain x) := by
  obtain ⟨hmark, hloops⟩ := h
  have hwave : byteAt p 20 = numByte x.wave := hp.byte 0
  have hprogram : byteAt p 21 = numByte x.program := hp.byte 1
  have hnat : natAt p 22 2 = x.loops :=
    (hp.nat 2 2).trans (natAt_beBytes 2 x.loops [numByte x.wave, numByte x.program] [] (by omega))
  simp [trainOf?, hmark, require, hwave, hprogram, hnat, outLineOf?_numByte, progOf?_numByte]

theorem count_read {x : CountParams} (hp : HoldsBlock p (KindParams.eventCount x).bytes)
    (h : (KindParams.eventCount x).Allowed c) : countOf? c p = some (.eventCount x) := by
  obtain ⟨⟨d, hclock⟩, hmin, hmax⟩ := h
  have hsignal : byteAt p 20 = numByte x.signal := hp.byte 0
  have hnat : natAt p 21 4 = x.limit :=
    (hp.nat 1 4).trans (natAt_beBytes 4 x.limit [numByte x.signal] [] (by omega))
  have hne : x.limit ≠ 0 := by omega
  simp [countOf?, hclock, require, hsignal, hnat, hne, inLineOf?_numByte]

theorem span_read {x : SpanParams} (hp : HoldsBlock p (KindParams.span x).bytes) (h : (KindParams.span x).Allowed c) :
    spanOf? c p = some (.span x) := by
  have hclock : c.clock ≠ .line x.signal := h
  have hsignal : byteAt p 20 = numByte x.signal := hp.byte 0
  have hmode : byteAt p 21 = x.mode.code := hp.byte 1
  simp [spanOf?, require, hsignal, hmode, hclock, inLineOf?_numByte, spanMode_read]

theorem window_read {x : WindowParams} (hp : HoldsBlock p (KindParams.windowCount x).bytes)
    (h : (KindParams.windowCount x).Allowed c) : windowOf? c p = some (.windowCount x) := by
  obtain ⟨signal, source⟩ := x
  obtain ⟨hclock, hsource⟩ := h
  have hsignal : byteAt p 20 = numByte signal := hp.byte 0
  have hread : windowSourceOf? c signal p = some source := by
    cases source with
    | line w =>
      obtain ⟨hw, hclock'⟩ := hsource
      have h21 : byteAt p 21 = 0x00 := hp.byte 1
      have h22 : byteAt p 22 = numByte w := hp.byte 2
      rw [windowSourceOf?, if_pos h21, h22, inLineOf?_numByte]
      exact (if_neg hw).trans (if_neg hclock')
    | duration d =>
      obtain ⟨hmin, hmax⟩ := hsource
      have h21 : byteAt p 21 = 0x01 := hp.byte 1
      have hnat : natAt p 23 4 = d :=
        (hp.nat 3 4).trans (natAt_beBytes 4 d [numByte signal, 0x01, absentLine] [] (by omega))
      rw [windowSourceOf?, h21, hnat]
      exact (if_neg (by decide)).trans ((if_pos rfl).trans (if_neg (by omega)))
  have hne : c.clock ≠ .line signal := hclock
  simp [windowOf?, require, hsignal, hne, hread, inLineOf?_numByte]

theorem position_read {x : PositionParams} (hp : HoldsBlock p (KindParams.position x).bytes)
    (h : (KindParams.position x).Allowed c) : positionOf? c p = some (.position x) := by
  obtain ⟨a, b, index, resolution, invert, preset, action, indexPhase, compare⟩ := x
  obtain ⟨hgate, hrepeats, hclock, hphases, hindexA, hindexB, hindex⟩ := h
  have hab : a ≠ b := hphases
  have hia : index ≠ some a := hindexA
  have hib : index ≠ some b := hindexB
  have h20 : byteAt p 20 = numByte a := hp.byte 0
  have h21 : byteAt p 21 = numByte b := hp.byte 1
  have h22 : byteAt p 22 = optLineByte index := hp.byte 2
  have h23 : byteAt p 23 = resolution.code := hp.byte 3
  have h24 : byteAt p 24 = flagByte invert := hp.byte 4
  have h29 : byteAt p 29 = action.code := hp.byte 9
  have h30 : byteAt p 30 = indexPhaseCode indexPhase := hp.byte 10
  have hpreset : natAt p 25 4 = preset.toNat :=
    (hp.nat 5 4).trans (by
      simp only [KindParams.bytes, List.append_assoc]
      exact natAt_beBytes 4 preset.toNat [_, _, _, _, _] _ preset.isLt)
  have hcompare : (if looseFlag (byteAt p 31) then some (BitVec.ofNat 32 (natAt p 32 4)) else none) = compare := by
    cases compare with
    | none =>
      have h31 : byteAt p 31 = 0x00 := hp.byte 11
      rw [h31]
      rfl
    | some v =>
      have h31 : byteAt p 31 = 0x01 := hp.byte 11
      have h32 : natAt p 32 4 = v.toNat :=
        (hp.nat 12 4).trans (by
          simp only [KindParams.bytes, List.append_assoc]
          exact natAt_beBytes 4 v.toNat (numByte a :: numByte b :: optLineByte index :: resolution.code ::
            flagByte invert :: (beBytes 4 preset.toNat ++ [action.code, indexPhaseCode indexPhase, 0x01])) [] v.isLt)
      rw [h31, h32, BitVec.ofNat_toNat, BitVec.setWidth_eq]
      rfl
  have hloaded : index.isSome = true ∨ action = .none ∧ indexPhase = none := by
    cases index with
    | some i => exact .inl rfl
    | none => exact .inr (hindex rfl)
  simp only [positionOf?, h20, h21, h22, h23, h24, h29, h30, hpreset, hcompare, inLineOf?_numByte, optField_inLine,
    resolution_read, strictFlag_read, indexAction_read, indexPhase_read]
  simp [require, hgate, hrepeats, hclock, hab, hia, hib, hloaded]

theorem deadline_read {x : DeadlineParams} (hp : HoldsBlock p (KindParams.deadline x).bytes)
    (h : (KindParams.deadline x).Allowed c) : deadlineOf? c p = some (.deadline x) := by
  obtain ⟨hmark, hclock, hlt, hmax⟩ := h
  have hkick : byteAt p 20 = numByte x.kick := hp.byte 0
  have halert : byteAt p 29 = optLineByte x.alert := hp.byte 9
  have hmin : natAt p 21 4 = x.minimum :=
    (hp.nat 1 4).trans (by
      simp only [KindParams.bytes, List.append_assoc]
      exact natAt_beBytes 4 x.minimum [_] _ (by omega))
  have hmaximum : natAt p 25 4 = x.maximum :=
    (hp.nat 5 4).trans (by
      simp only [KindParams.bytes, List.append_assoc]
      exact natAt_beBytes 4 x.maximum (numByte x.kick :: beBytes 4 x.minimum) _ (by omega))
  have hbelow : x.minimum < Config.maxCount := by
    unfold Config.maxCount
    omega
  simp [deadlineOf?, require, hmark, hkick, hclock, hmin, hmaximum, hbelow, hlt, halert, inLineOf?_numByte,
    optField_outLine]

end

/-- A record's layout holds its kind block. -/
theorem holdsBlock_record (k : Slot) (c : Common) (kind : KindParams) :
    HoldsBlock (numByte k :: (c.bytes kind ++ kind.bytes)) kind.bytes :=
  ⟨byteAt_record_block k c kind kind.bytes, natAt_record_block k c kind kind.bytes⟩

theorem kindOf?_record (h : kind.Allowed c) :
    kindOf? c (numByte k :: (c.bytes kind ++ kind.bytes)) = some kind := by
  have hkind := byteAt_record_kind k c kind kind.bytes
  have hblock := holdsBlock_record k c kind
  rw [kindOf?, hkind]
  cases kind with
  | pulseTrain x => exact train_read hblock h
  | eventCount x => exact count_read hblock h
  | span x => exact span_read hblock h
  | windowCount x => exact window_read hblock h
  | position x => exact position_read hblock h
  | deadline x => exact deadline_read hblock h

theorem recordOf?_record (h : RecordAllowed k c kind) :
    recordOf? k (numByte k :: (c.bytes kind ++ kind.bytes)) = some (c, kind) := by
  rw [recordOf?, commonOf?_record h]
  simp only [Option.bind_eq_bind, Option.bind_some]
  rw [kindOf?_record h.parameters]
  simp [require, h.outputs]

theorem defineLenOk_record (k : Slot) (c : Common) (kind : KindParams) :
    defineLenOk (numByte k :: (c.bytes kind ++ kind.bytes)) = true := by
  have hlen : (numByte k :: (c.bytes kind ++ kind.bytes)).length = 20 + kind.bytes.length := by
    rw [List.length_cons, List.length_append, length_common_bytes]
    omega
  rw [defineLenOk, byteAt_record_kind, hlen]
  cases kind with
  | windowCount x => cases x with | mk signal source => cases source <;> rfl
  | position x => cases x with | mk a b index r i p ac ph compare => cases compare <;> rfl
  | pulseTrain x => rfl
  | eventCount x => rfl
  | span x => rfl
  | deadline x => rfl

/-! ### Only allowed records are read (R5) -/

theorem require_eq_some {b : Bool} {u : Unit} : require b = some u ↔ b = true := by
  unfold require
  split <;> simp [*]

theorem divider_of_clockOf? {x : ClockSource} (h : clockOf? p = some x) : ∀ d, x = .timebase d → 1 ≤ d ∧ d ≤ 65536 := by
  rintro d rfl
  unfold clockOf? at h
  split at h
  · split at h
    · next hd =>
      cases h
      exact hd
    · cases h
  · split at h
    · obtain ⟨l, -, hl⟩ := Option.map_eq_some_iff.1 h
      cases hl
    · cases h

theorem start_of_startOf? {x : StartWhen} {hasTrigger : Bool} (h : startOf? k hasTrigger p = some x) :
    (x = .trigger → hasTrigger = true) ∧ x ≠ .after k := by
  unfold startOf? at h
  split at h
  · cases h
    exact ⟨nofun, nofun⟩
  split at h
  · split at h
    · next ht =>
      cases h
      exact ⟨fun _ => ht, nofun⟩
    · cases h
  split at h
  · obtain ⟨m, -, hm⟩ := Option.bind_eq_some_iff.1 h
    split at hm
    · cases hm
    · next hne =>
      cases hm
      exact ⟨nofun, fun e => hne (StartWhen.after.inj e)⟩
  · cases h

theorem ticks_of_markOf? {x : Option Mark} (h : markOf? p = some x) :
    ∀ m, x = some m → 1 ≤ m.ticks ∧ m.ticks ≤ 65535 := by
  rintro m rfl
  obtain ⟨l, -, hl⟩ := Option.bind_eq_some_iff.1 h
  cases l with
  | none => cases hl
  | some l =>
    dsimp only at hl
    split at hl
    · cases hl
    · next hne =>
      cases hl
      have hlt := natAt_lt p 18 2
      exact ⟨Nat.pos_of_ne_zero hne, Nat.le_of_lt_succ hlt⟩

/-- What the common fields that are read keep to. -/
theorem common_of_commonOf? (h : commonOf? k p = some c) :
    (∀ d, c.clock = .timebase d → 1 ≤ d ∧ d ≤ 65536) ∧ (c.start = .trigger → c.trigger ≠ none) ∧ c.start ≠ .after k ∧
      ∀ m, c.mark = some m → 1 ≤ m.ticks ∧ m.ticks ≤ 65535 := by
  simp only [commonOf?, Option.bind_eq_bind, Option.bind_eq_some_iff] at h
  obtain ⟨clock, hclock, trigger, -, start, hstart, gate, -, repeats, -, policy, -, reportClass, -, mark, hmark, heq⟩ := h
  cases heq
  obtain ⟨htrigger, hother⟩ := start_of_startOf? hstart
  exact ⟨divider_of_clockOf? hclock, fun e => Option.isSome_iff_ne_none.1 (htrigger e), hother, ticks_of_markOf? hmark⟩

theorem train_of_trainOf? (h : trainOf? c p = some kind) : kind.Allowed c := by
  simp only [trainOf?, Option.bind_eq_bind, Option.bind_eq_some_iff, require_eq_some] at h
  obtain ⟨-, hmark, wave, -, program, -, heq⟩ := h
  cases heq
  have hlt := natAt_lt p 22 2
  exact ⟨Option.isNone_iff_eq_none.1 hmark, Nat.le_of_lt_succ hlt⟩

theorem count_of_countOf? (h : countOf? c p = some kind) : kind.Allowed c := by
  simp only [countOf?, Option.bind_eq_bind, Option.bind_eq_some_iff, require_eq_some] at h
  obtain ⟨-, hclock, signal, -, -, hlimit, heq⟩ := h
  cases heq
  have hlt := natAt_lt p 21 4
  refine ⟨?_, Nat.pos_of_ne_zero (by simpa using hlimit), Nat.le_of_lt_succ hlt⟩
  cases hc : c.clock with
  | timebase d => exact ⟨d, rfl⟩
  | line l => simp [hc] at hclock

theorem span_of_spanOf? (h : spanOf? c p = some kind) : kind.Allowed c := by
  simp only [spanOf?, Option.bind_eq_bind, Option.bind_eq_some_iff, require_eq_some] at h
  obtain ⟨signal, -, -, hclock, mode, -, heq⟩ := h
  cases heq
  exact bne_iff_ne.1 hclock

theorem source_of_windowSourceOf? {signal : InLine} {source : WindowSource}
    (h : windowSourceOf? c signal p = some source) :
    match source with
    | .line w => w ≠ signal ∧ c.clock ≠ .line w
    | .duration d => 1 ≤ d ∧ d ≤ 4294967295 := by
  unfold windowSourceOf? at h
  split at h
  · obtain ⟨w, -, hw⟩ := Option.bind_eq_some_iff.1 h
    split at hw
    · cases hw
    split at hw
    · cases hw
    · next hsignal hclock =>
      cases hw
      exact ⟨hsignal, hclock⟩
  split at h
  · split at h
    · cases h
    · next hne =>
      cases h
      have hlt := natAt_lt p 23 4
      exact ⟨Nat.pos_of_ne_zero hne, Nat.le_of_lt_succ hlt⟩
  · cases h

theorem window_of_windowOf? (h : windowOf? c p = some kind) : kind.Allowed c := by
  simp only [windowOf?, Option.bind_eq_bind, Option.bind_eq_some_iff, require_eq_some] at h
  obtain ⟨signal, -, -, hclock, source, hsource, heq⟩ := h
  cases heq
  refine ⟨bne_iff_ne.1 hclock, ?_⟩
  have hallowed := source_of_windowSourceOf? hsource
  cases source with
  | line w => exact hallowed
  | duration d => exact hallowed

theorem position_of_positionOf? (h : positionOf? c p = some kind) : kind.Allowed c := by
  simp only [positionOf?, Option.bind_eq_bind, Option.bind_eq_some_iff, require_eq_some] at h
  obtain ⟨-, hgate, -, hrepeats, -, hclock, a, -, b, -, index, -, resolution, -, invert, -, action, -, phase, -, -, hab,
    -, hindex, -, hloaded, heq⟩ := h
  cases heq
  rw [Bool.and_eq_true, bne_iff_ne, bne_iff_ne] at hindex
  refine ⟨Option.isNone_iff_eq_none.1 hgate, eq_of_beq hrepeats, eq_of_beq hclock, bne_iff_ne.1 hab, hindex.1,
    hindex.2, ?_⟩
  rintro rfl
  rw [Option.isSome_none, Bool.false_or, Bool.and_eq_true] at hloaded
  exact ⟨eq_of_beq hloaded.1, Option.isNone_iff_eq_none.1 hloaded.2⟩

theorem deadline_of_deadlineOf? (h : deadlineOf? c p = some kind) : kind.Allowed c := by
  simp only [deadlineOf?, Option.bind_eq_bind, Option.bind_eq_some_iff, require_eq_some] at h
  obtain ⟨-, hmark, kick, -, -, hclock, -, -, -, hlt, alert, -, heq⟩ := h
  cases heq
  have hmax := natAt_lt p 25 4
  exact ⟨Option.isNone_iff_eq_none.1 hmark, bne_iff_ne.1 hclock, of_decide_eq_true hlt, Nat.le_of_lt_succ hmax⟩

theorem allowed_of_kindOf? (h : kindOf? c p = some kind) : kind.Allowed c := by
  unfold kindOf? at h
  split at h
  · exact train_of_trainOf? h
  · exact count_of_countOf? h
  · exact span_of_spanOf? h
  · exact window_of_windowOf? h
  · exact position_of_positionOf? h
  · exact deadline_of_deadlineOf? h
  · cases h

theorem recordAllowed_of_recordOf? (h : recordOf? k p = some (c, kind)) : RecordAllowed k c kind := by
  have houtputs := nodup_of_recordOf? h
  simp only [recordOf?, Option.bind_eq_bind, Option.bind_eq_some_iff] at h
  obtain ⟨c', hcommon, kind', hkind, -, -, heq⟩ := h
  cases heq
  obtain ⟨hdivider, htriggered, hother, hmark⟩ := common_of_commonOf? hcommon
  exact ⟨hdivider, htriggered, hother, hmark, allowed_of_kindOf? hkind, houtputs⟩

/-- Settles O5: each field of the layout is read back (`commonOf?_record`, `kindOf?_record`), and each check of the reading
is a bound of an allowed record (`recordAllowed_of_recordOf?`). -/
theorem taskRecordIsReadAsCoded : Obligations.TaskRecordIsReadAsCoded := by
  intro k c kind
  have hlayout : recordLayout k c kind = numByte k :: (c.bytes kind ++ kind.bytes) := by
    rw [recordLayout, commonBytes_eq, blockBytes_eq, numByte_eq]
  refine ⟨fun h => ?_, fun p => recordAllowed_of_recordOf?⟩
  rw [hlayout]
  exact ⟨recordOf?_record h, defineLenOk_record k c kind⟩

end Sys2Proof.Machine
end

section
/-! The completion of a run, said once: the records, the offers and the output lines that `Work.complete` leaves, and that these
are what the claims call `Completed` (R13, R19, R20, R73, R147). -/

namespace Sys2Proof.Machine

variable {s t u x : State} {w : Work} {k j : Slot} {a b : Task} {e : Engine} {now : Time} {carry : Bool} {l : OutLine}
  {p : TrainParams} {level : InLine → Cond} {segments : Prog → List Segment} {outs : Bank Output 8} {reports : List Report}

/-! ### The record of a task after its completion -/

/-- The record of a task after its completion. -/
def Task.completed (a : Task) (segments : Prog → List Segment) (level : InLine → Cond) (now : Time) (carry : Bool) : Task :=
  Task.movedOn { a with runCount := sat16 a.runCount } segments level now carry

theorem Task.completed_goesOn (h : a.goesOn) :
    a.completed segments level now carry =
      { a with
        runCount := sat16 a.runCount, engine := a.engine.nextRun segments level now carry, startTime := now
        tickPhase := 0, clockDue := false } := by
  obtain ⟨hs, hr⟩ := h
  rw [Task.completed, Task.movedOn, hs, hr]

/-- The state in which a run that does not go on leaves its task (R20). -/
def Task.endState (a : Task) : TaskState := if a.state = .running ∧ a.common.repeats = .rearm then .armed else .done

theorem Task.completed_ends (h : ¬a.goesOn) :
    a.completed segments level now carry = Task.left { a with runCount := sat16 a.runCount } a.endState := by
  unfold Task.completed Task.movedOn Task.endState
  dsimp only
  split
  next hs hr => rw [if_pos ⟨hs, hr⟩]
  next hs hr => exact absurd ⟨hs, hr⟩ h
  next hs hr => rw [if_neg (by simp [hr])]
  next hne _ _ => rw [if_neg fun h => hne h.1 h.2]

@[simp] theorem Task.completed_fixed : (a.completed segments level now carry).fixed = a.fixed := by
  rw [Task.completed, Task.movedOn_fixed]
  rfl

theorem Task.completed_params : (a.completed segments level now carry).engine.params = a.engine.params :=
  congrArg Prod.snd (Task.completed_fixed (a := a))

theorem Task.completed_running :
    (a.completed segments level now carry).state = .running ↔ a.goesOn := by
  by_cases h : a.goesOn
  · rw [Task.completed_goesOn h]
    exact iff_of_true h.1 h
  · rw [Task.completed_ends h]
    refine iff_of_false ?_ h
    change a.endState ≠ .running
    unfold Task.endState
    split <;> simp

/-! ### The state a completion leaves -/

/-- The state of a completion: the run counted, the dependents begun, the task moved on. -/
theorem complete_st (hb : w.st.task? k = some b) :
    (w.complete k now carry).st =
      (let begun := (w.st.dependents k).foldl (fun s j => s.beginRun j s.levelNow now)
        (w.st.setTask k { b with runCount := sat16 b.runCount })
       let moved := b.completed w.st.segments w.st.levelNow now carry
       if moved.state = .running then (begun.setTask k moved).driveWave moved.engine else begun.setTask k moved) := by
  obtain ⟨hlevel, hsegments⟩ := begun_levels (now := now)
    (w.st.setTask k { b with runCount := sat16 b.runCount }) (w.st.dependents k)
  unfold Work.complete
  rw [hb]
  dsimp only
  rw [Work.foldl_offerStarted]
  simp only [Work.offerDone_st, Work.on_st, beq_iff_eq, hlevel, hsegments]
  rfl

@[simp] theorem complete_own : (w.complete k now carry).own = w.own := by
  unfold Work.complete
  split
  · rfl
  · dsimp only
    rw [Work.foldl_offerStarted]
    exact Work.offerDone_own ..

/-- The dependents, begun after the run is counted. -/
theorem begun_task? (hj : j ≠ k) :
    ((w.st.dependents k).foldl (fun s j => s.beginRun j s.levelNow now)
      (w.st.setTask k { b with runCount := sat16 b.runCount })).task? j =
      if j ∈ w.st.dependents k then (w.st.task? j).map fun d => d.begun w.st.segments w.st.levelNow now
      else w.st.task? j := by
  rw [foldl_beginRun_task? _ _ _ _ (dependents_nodup _ _), State.task?_setTask_ne _ _ _ _ hj]
  rfl

section
variable (hb : w.st.task? k = some b)
include hb

/-- Every record a completion leaves. -/
theorem complete_task? (j : Slot) :
    (w.complete k now carry).st.task? j =
      if j = k then some (b.completed w.st.segments w.st.levelNow now carry)
      else if j ∈ w.st.dependents k then (w.st.task? j).map fun d => d.begun w.st.segments w.st.levelNow now
      else w.st.task? j := by
  have hset : (w.complete k now carry).st.task? j =
      (((w.st.dependents k).foldl (fun s j => s.beginRun j s.levelNow now)
        (w.st.setTask k { b with runCount := sat16 b.runCount })).setTask k
          (b.completed w.st.segments w.st.levelNow now carry)).task? j := by
    rw [complete_st hb]
    dsimp only
    split
    · exact State.task?_driveWave ..
    · rfl
  rw [hset]
  by_cases hj : j = k
  · subst hj
    rw [if_pos rfl, State.task?_setTask_self]
  · rw [if_neg hj, State.task?_setTask_ne _ _ _ _ hj, begun_task? hj]

/-- A line that is no WAVE line of the slot is left by the step of the completing task itself. -/
theorem complete_outputs_begun (hk : ∀ p, b.engine.params = .pulseTrain p → p.wave ≠ l) :
    (w.complete k now carry).st.lines.outputs.get l =
      ((w.st.dependents k).foldl (fun s j => s.beginRun j s.levelNow now)
        (w.st.setTask k { b with runCount := sat16 b.runCount })).lines.outputs.get l := by
  rw [complete_st hb]
  dsimp only
  split
  · rw [State.driveWave_outputs_other _ fun p hp => hk p (Task.completed_params.symm.trans hp)]
    rfl
  · rfl

variable (harmed : b.state ≠ .armed)
include harmed

theorem not_mem_dependents_of_record : k ∉ w.st.dependents k := by
  rw [mem_dependents]
  rintro ⟨c, hc, hstate, -⟩
  rw [hb] at hc
  cases hc
  exact harmed hstate

/-- The offers of a completion that keep no order: its TASK_DONE where it comes to DONE, and the TASK_STARTEDs. -/
theorem complete_free :
    (w.complete k now carry).free =
      w.free ++
        (if (b.completed w.st.segments w.st.levelNow now carry).state = .done then
          [offerOf k b (.taskDone b.state.endingAtCompletion b.engine.principal (sat16 b.runCount) b.overrunCount)]
        else []) ++
        (w.st.dependents k).flatMap fun j => (w.st.task? j).elim [] fun d => startOffers j d .after := by
  have hnot := not_mem_dependents_of_record hb harmed
  obtain ⟨hlevel, hsegments⟩ := begun_levels (now := now)
    (w.st.setTask k { b with runCount := sat16 b.runCount }) (w.st.dependents k)
  unfold Work.complete
  rw [hb]
  dsimp only
  rw [Work.foldl_offerStarted]
  generalize hmoved : Work.on _ _ = moved
  have hst : moved.st.task? = (w.complete k now carry).st.task? := by
    funext i
    rw [complete_st hb, ← hmoved]
    simp only [Work.on_st, beq_iff_eq, hlevel, hsegments]
    rfl
  have hfree : moved.free = w.free := by rw [← hmoved]; rfl
  have hk : moved.st.task? k = some (b.completed w.st.segments w.st.levelNow now carry) := by
    rw [hst, complete_task? hb, if_pos rfl]
  have hcommon : (b.completed w.st.segments w.st.levelNow now carry).common = b.common :=
    congrArg Prod.fst (Task.completed_fixed (a := b))
  have hstarted : ((w.st.dependents k).flatMap fun j => (moved.st.task? j).elim [] fun d => startOffers j d .after) =
      (w.st.dependents k).flatMap fun j => (w.st.task? j).elim [] fun d => startOffers j d .after := by
    refine List.flatMap_congr fun j hj => ?_
    have hjk : j ≠ k := fun e => hnot (e ▸ hj)
    rw [hst, complete_task? hb, if_neg hjk, if_pos hj]
    cases w.st.task? j <;> rfl
  rw [Work.offerDone_st, hstarted, Work.offerDone, hk]
  dsimp only
  split
  · rw [Work.offerFree_of_some _ _ hk, offerOf, offerOf, hcommon, hfree]
  · rw [hfree, List.append_nil]


/-! ### The output lines a completion leaves -/

/-- The dependents' starts leave a line that is none of their WAVE lines. -/
theorem begun_outputs_other (hdeps : ∀ j ∈ w.st.dependents k, w.st.WaveNot l j) :
    ((w.st.dependents k).foldl (fun s j => s.beginRun j s.levelNow now)
      (w.st.setTask k { b with runCount := sat16 b.runCount })).lines.outputs.get l = w.st.lines.outputs.get l := by
  have hnot := not_mem_dependents_of_record hb harmed
  rw [foldl_beginRun_outputs_other _ (dependents_nodup _ _) fun j hj c p hc hp => ?_]
  · rfl
  · have hjk : j ≠ k := fun e => hnot (e ▸ hj)
    rw [State.task?_setTask_ne _ _ _ _ hjk] at hc
    exact hdeps j hj c p hc hp

/-- A line that is no WAVE line of the slot or of a dependent is left. -/
theorem complete_outputs_other (hk : ∀ p, b.engine.params = .pulseTrain p → p.wave ≠ l)
    (hdeps : ∀ j ∈ w.st.dependents k, w.st.WaveNot l j) :
    (w.complete k now carry).st.lines.outputs.get l = w.st.lines.outputs.get l := by
  rw [complete_outputs_begun hb hk, begun_outputs_other hb harmed hdeps]

/-- The WAVE line of a dependent shows segment 0. -/
theorem complete_outputs_dependent {r : TrainRun} {g : Segment} (hj : j ∈ w.st.dependents k) (ha : w.st.task? j = some a)
    (he : a.engine = .pulseTrain p r) (hg : (w.st.segments p.program)[0]? = some g)
    (hk : ∀ q, b.engine.params = .pulseTrain q → q.wave ≠ p.wave)
    (hdeps : ∀ i ∈ w.st.dependents k, i ≠ j → w.st.WaveNot p.wave i) :
    (w.complete k now carry).st.lines.outputs.get p.wave = (w.st.lines.outputs.get p.wave).drive (g.level == .active) := by
  have hnot := not_mem_dependents_of_record hb harmed
  have hne : ∀ i ∈ w.st.dependents k, i ≠ k := fun i hi e => hnot (e ▸ hi)
  rw [complete_outputs_begun hb hk,
    foldl_beginRun_outputs_wave (j := j) (a := a) (p := p) (g := g) _ (dependents_nodup _ _) hj
      ((State.task?_setTask_ne _ _ _ _ (hne j hj)).trans ha) he hg fun i hi hij c q hc hq => ?_]
  · rfl
  · rw [State.task?_setTask_ne _ _ _ _ (hne i hi)] at hc
    exact hdeps i hi hij c q hc hq

/-- The slot's own WAVE line is left by a run that ends. -/
theorem complete_outputs_ended (hends : ¬b.goesOn) (hdeps : ∀ i ∈ w.st.dependents k, w.st.WaveNot l i) :
    (w.complete k now carry).st.lines.outputs.get l = w.st.lines.outputs.get l := by
  rw [complete_st hb]
  dsimp only
  rw [if_neg fun h => hends (Task.completed_running.1 h)]
  exact begun_outputs_other hb harmed hdeps

/-- The slot's own WAVE line shows the segment of a run that goes on. -/
theorem complete_outputs_self {r : TrainRun} {g : Segment} (hgoes : b.goesOn)
    (hdeps : ∀ i ∈ w.st.dependents k, w.st.WaveNot p.wave i)
    (he : (b.completed w.st.segments w.st.levelNow now carry).engine = .pulseTrain p r)
    (hg : (w.st.segments p.program)[r.index]? = some g) :
    (w.complete k now carry).st.lines.outputs.get p.wave = (w.st.lines.outputs.get p.wave).drive (g.level == .active) := by
  have hsegments := (begun_levels (now := now)
    (w.st.setTask k { b with runCount := sat16 b.runCount }) (w.st.dependents k)).2
  rw [complete_st hb]
  dsimp only
  rw [if_pos (Task.completed_running.2 hgoes), he, State.driveWave_outputs (g := g) _ _ _ ?_, if_pos rfl]
  · exact congrArg (fun o => Output.drive o _) (begun_outputs_other hb harmed hdeps)
  · exact (congrArg (fun f => (f p.program)[r.index]?) hsegments).trans hg

end

/-! ### What a completion keeps -/

theorem complete_frame (w : Work) (k : Slot) (now : Time) (carry : Bool) :
    OtherBlocksKept w.st (w.complete k now carry).st ∧ (w.complete k now carry).st.tasks.updates = w.st.tasks.updates ∧
      (w.complete k now carry).st.reports = w.st.reports ∧ (w.complete k now carry).st.events = w.st.events ∧
      (w.complete k now carry).st.link = w.st.link := by
  cases hb : w.st.task? k with
  | none =>
    unfold Work.complete
    rw [hb]
    exact ⟨⟨rfl, rfl, rfl, rfl, rfl, rfl⟩, rfl, rfl, rfl, rfl⟩
  | some b =>
    obtain ⟨h1, h2, h3, h4, h5, h6, h7, h8, h9, h10⟩ :=
      foldl_beginRun_frame (w.st.setTask k { b with runCount := sat16 b.runCount }) now (w.st.dependents k)
    rw [complete_st hb]
    dsimp only
    split
    · obtain ⟨g1, g2, g3, g4, g5, g6, g7, g8, g9, g10⟩ := State.driveWave_frame
        (((w.st.dependents k).foldl (fun s j => s.beginRun j s.levelNow now)
          (w.st.setTask k { b with runCount := sat16 b.runCount })).setTask k
          (b.completed w.st.segments w.st.levelNow now carry))
          (b.completed w.st.segments w.st.levelNow now carry).engine
      exact ⟨⟨g1.trans h1, g2.trans h2, g4.trans h4, g5.trans h5, g6.trans h6, g7.trans h7⟩,
        (congrArg TaskTable.updates g3).trans h3, g8.trans h8, g9.trans h9, g10.trans h10⟩
    · exact ⟨⟨h1, h2, h4, h5, h6, h7⟩, h3, h8, h9, h10⟩

/-! ### An event at one slot, midway -/

/-- The state with these output lines. -/
def State.withOutputs (s : State) (outs : Bank Output 8) : State := { s with lines := { s.lines with outputs := outs } }

/-- An event at slot `k`, begun in the state `x`: the slot's record is now `b`, the output lines are `outs`, and the slot has
offered `reports`. -/
def midway (x : State) (k : Slot) (b : Task) (outs : Bank Output 8) (reports : List Report) : Work :=
  { st := (x.setTask k b).withOutputs outs, own := reports.map (offerOf k b), free := [] }

/-- The output lines after a mark event of a task, where it names a mark (R43). -/
def Task.marked (a : Task) (now : Time) (outs : Bank Output 8) : Bank Output 8 :=
  match a.common.mark with
  | some m => outs.modify m.line fun o => o.pulse (now + BitVec.ofNat 48 m.ticks)
  | none => outs

@[simp] theorem midway_task? : (midway x k b outs reports).st.task? k = some b := State.task?_setTask_self ..

theorem midway_task?_ne (hj : j ≠ k) : (midway x k b outs reports).st.task? j = x.task? j := State.task?_setTask_ne _ _ _ _ hj

@[simp] theorem midway_outputs : (midway x k b outs reports).st.lines.outputs = outs := rfl

theorem setTask_midway : ((midway x k b outs reports).on fun s => s.setTask k { b with engine := e }) =
    midway x k { b with engine := e } outs reports := by
  simp [midway, Work.on, State.setTask, State.withOutputs, offerOf]

@[simp] theorem setEngine_midway (e : Engine) :
    (midway x k b outs reports).setEngine k e = midway x k { b with engine := e } outs reports := by
  rw [Work.setEngine_of_some _ _ midway_task?, setTask_midway]

@[simp] theorem offer_midway (r : Report) :
    (midway x k b outs reports).offer k r = midway x k b outs (reports ++ [r]) := by
  rw [Work.offer_of_some _ _ midway_task?]
  simp [midway]

@[simp] theorem markEvent_midway :
    ((midway x k b outs reports).on fun s => s.markEvent k now) = midway x k b (b.marked now outs) reports := by
  have hst : (midway x k b outs reports).st.markEvent k now = (midway x k b (b.marked now outs) reports).st := by
    rw [State.markEvent, midway_task?, Task.marked]
    dsimp only
    cases b.common.mark <;> rfl
  exact congrArg (fun st => ({ st := st, own := reports.map (offerOf k b), free := [] } : Work)) hst

theorem finish_midway :
    (midway x k b outs reports).finish now =
      ((x.setTask k b).withOutputs outs).offering now (reports.map (offerOf k b)) [] := Work.finish_eq ..

/-- An event that offers nothing leaves nothing to the queue. -/
theorem finish_midway_nil : (midway x k b outs []).finish now = (x.setTask k b).withOutputs outs := rfl

/-! ### A completion as the claims tell it -/

/-- The dependents of a slot in a run, midway in its event. -/
theorem dependents_midway (hx : x.task? k = some a) (ha : a.state ≠ .armed) (hb : b.state ≠ .armed) :
    (midway x k b outs reports).st.dependents k = x.dependents k := by
  refine List.filter_congr fun j _ => ?_
  by_cases hj : j = k
  · subst hj
    rw [midway_task?, hx]
    simp [Task.awaitsCompletionOf, beq_false_of_ne ha, beq_false_of_ne hb]
  · rw [midway_task?_ne hj]

/-- The offers of a completion after its result (R19, R20, R26). -/
theorem laterOffers_eq (hs : b.state = .running ∨ b.state = .stopping) :
    (if (b.completed segments level now carry).state = .done then
      [offerOf k b (.taskDone b.state.endingAtCompletion b.engine.principal (sat16 b.runCount) b.overrunCount)] else []) ++
      (x.dependents k).flatMap (fun j => (x.task? j).elim [] fun d => startOffers j d .after) =
      laterOffers x k b b.engine.principal := by
  rw [laterOffers, sat16_eq]
  congr 1
  by_cases hgoes : b.goesOn
  · obtain ⟨hrun, hcont⟩ := hgoes
    rw [Task.completed_goesOn ⟨hrun, hcont⟩, if_neg (by simp [hrun]), if_neg (by simp [hrun]), if_neg (by simp [hcont])]
  · rw [Task.completed_ends hgoes]
    change (if b.endState = .done then _ else _) = _
    unfold Task.endState
    rcases hs with hs | hs
    · cases hr : b.common.repeats with
      | continuous => exact absurd ⟨hs, hr⟩ hgoes
      | once => simp [hs, TaskState.endingAtCompletion]
      | rearm => simp [hs]
    · simp [hs, TaskState.endingAtCompletion]

/-- The record after a completion, field by field (R20). -/
theorem completed_record (hs : a.state = .running ∨ a.state = .stopping) :
    (b = ({ a with engine := e } : Task).completed segments level now carry) →
    b.common = a.common ∧ b.runCount = min 65535 (a.runCount + 1) ∧ b.overrunCount = a.overrunCount ∧
      b.faultReason = a.faultReason ∧
      (b.state, b.held, b.startTime) =
        (if a.state = .stopping then (.done, false, a.startTime)
         else match a.common.repeats with
           | .once => (.done, false, a.startTime)
           | .rearm => (.armed, false, a.startTime)
           | .continuous => (.running, a.held, now)) ∧
      (b.state = .running → b.tickPhase = 0 ∧ b.clockDue = false) := by
  rintro rfl
  by_cases hgoes : a.goesOn
  · have hgoes' : ({ a with engine := e } : Task).goesOn := hgoes
    obtain ⟨hrun, hcont⟩ := hgoes
    rw [Task.completed_goesOn hgoes']
    exact ⟨rfl, sat16_eq _, rfl, rfl, by simp [hrun, hcont], fun _ => ⟨rfl, rfl⟩⟩
  · have hgoes' : ¬({ a with engine := e } : Task).goesOn := hgoes
    rw [Task.completed_ends hgoes']
    refine ⟨rfl, sat16_eq _, rfl, rfl, ?_, fun h => ?_⟩
    · rcases hs with hs | hs
      · cases hr : a.common.repeats with
        | continuous => exact absurd ⟨hs, hr⟩ hgoes
        | once => simp [Task.left, Task.endState, hs, hr]
        | rearm => simp [Task.left, Task.endState, hs, hr]
      · simp [Task.left, Task.endState, hs]
    · change Task.endState _ = .running at h
      unfold Task.endState at h
      split at h <;> cases h

section
variable (ho : x.OwnershipSound) (hx : x.task? k = some a)
include ho hx

/-- A slot's lines are not those of another slot. -/
theorem State.OwnershipSound.owner_ne {r r' : OutRole} (hl : (l, r) ∈ outputsOf a.common a.engine.params) (hj : j ≠ k) :
    (x.lines.outputs.get l).owner ≠ .task j r' := by
  rw [(ho.owners l k r).2 ⟨a, hx, hl⟩]
  exact fun e => hj (Owner.task.inj e).1.symm

end

/-- A completion whose event has changed no line of another slot before it is one as the claims tell it. -/
theorem completed_midway {a₀ : Task} (ho : x.OwnershipSound) (hx : x.task? k = some a₀) (ha₀ : a₀.state ≠ .armed)
    (hfixed : a.fixed = a₀.fixed) (hs : a.state = .running ∨ a.state = .stopping) (he : e.params = a.engine.params)
    (houts : ∀ l, (∀ r, (x.lines.outputs.get l).owner ≠ .task k r) → outs.get l = x.lines.outputs.get l) :
    Completed x (((midway x k { a with engine := e } outs reports).complete k now carry).finish now) k a now reports
      e.principal (({ a with engine := e } : Task).completed x.segments x.levelNow now carry).engine := by
  have harmed : ({ a with engine := e } : Task).state ≠ .armed := by rcases hs with hs | hs <;> simp [hs]
  have hdeps := dependents_midway (outs := outs) (reports := reports) hx ha₀ harmed
  have hnot : k ∉ x.dependents k := hdeps ▸ not_mem_dependents_of_record midway_task? harmed
  have hne : ∀ j ∈ x.dependents k, j ≠ k := fun j hj e => hnot (e ▸ hj)
  have hparams : e.params = a₀.engine.params := he.trans (congrArg Prod.snd hfixed)
  obtain ⟨hblocks, hupdates, hreports, hevents, hlink⟩ :=
    complete_frame (midway x k { a with engine := e } outs reports) k now carry
  rw [Work.finish_eq]
  have htask : ∀ j, (((midway x k { a with engine := e } outs reports).complete k now carry).st.offering now
      ((midway x k { a with engine := e } outs reports).complete k now carry).own
      ((midway x k { a with engine := e } outs reports).complete k now carry).free).task? j = _ :=
    fun j => (State.offering_task? ..).trans (complete_task? midway_task? j)
  rw [hdeps] at htask
  refine {
    record := ?record, dependents := ?dependents, others := ?others, offers := ?offers
    reports := (State.offering_reports ..).trans hreports
    blocks := OtherBlocksKept.trans ?kept (State.offering_blocks ..)
    link := (State.offering_link ..).trans hlink
    updates := fun j _ => by rw [State.offering_updates, hupdates]; rfl }
  case kept => exact ⟨hblocks.pending, hblocks.inReset, hblocks.inputs, hblocks.sampled, hblocks.timebase, hblocks.programs⟩
  case record =>
    refine ⟨_, (htask k).trans (if_pos rfl), ?_⟩
    obtain ⟨hcommon, hcount, hover, hreason, hstate, hphase⟩ := completed_record (e := e) (segments := x.segments)
      (level := x.levelNow) (now := now) (carry := carry) hs rfl
    exact ⟨hcommon, hcount, hover, hreason, rfl, hstate, hphase⟩
  case others =>
    intro j hj hnotdep
    rw [htask, if_neg hj, if_neg hnotdep, midway_task?_ne hj]
  case offers =>
    rw [complete_own, complete_free midway_task? harmed, hdeps, List.append_assoc]
    have hfree : ((x.dependents k).flatMap fun j =>
        ((midway x k { a with engine := e } outs reports).st.task? j).elim [] fun d => startOffers j d .after) =
        (x.dependents k).flatMap fun j => (x.task? j).elim [] fun d => startOffers j d .after :=
      List.flatMap_congr fun j hj => by rw [midway_task?_ne (hne j hj)]
    rw [hfree, laterOffers_eq (b := { a with engine := e }) hs]
    exact State.offering_events_congr (s := x) hevents hblocks.timebase _ _ _
  case dependents =>
    intro j hj
    obtain ⟨d, hd, -⟩ := (mem_dependents _ _ _).1 hj
    refine started_of_begun hd ?_ fun p r g hdp hg => ?_
    · rw [htask, if_neg (hne j hj), if_pos hj, midway_task?_ne (hne j hj), hd]
      rfl
    · have hwave : (p.wave, OutRole.wave) ∈ outputsOf d.common d.engine.params := by
        rw [hdp]
        exact wave_mem
      rw [State.offering_lines, complete_outputs_dependent midway_task? harmed (hdeps.symm ▸ hj)
        ((midway_task?_ne (hne j hj)).trans hd) hdp hg]
      · rw [midway_outputs, houts _ fun r => ho.owner_ne hd hwave (hne j hj).symm]
      · intro q hq hsame
        have hk := ho.owner_ne (r' := .wave) hd hwave (hne j hj).symm
        rw [← hsame] at hk
        exact hk ((ho.owners _ _ _).2 ⟨a₀, hx, hparams ▸ hq ▸ wave_mem⟩)
      · intro i hi hij c q hc hq
        rw [midway_task?_ne (hne i (hdeps ▸ hi))] at hc
        exact ho.waveNot hd (by rw [hdp]; rfl) hij c q hc hq

end Sys2Proof.Machine
end

section
/-! An engine's event as it is taken: what the first two steps of an update leave to the working edges, and the completion that an
update, a task clock or an expiry comes to (R14 to R20, R57). -/

namespace Sys2Proof.Machine

variable {s t u x : State} {w : Work} {k j : Slot} {a b : Task} {e : Engine} {now : Time} {carry : Bool} {l : OutLine}
  {p : TrainParams} {outs : Bank Output 8} {reports : List Report} {v : View} {turns : Turns} {left : Task → State}
  {final : BitVec 32}

/-! ### The first two steps of an update (R14) -/

theorem Task.gated_of_none (h : b.common.gate = none) : b.gated v = b := by rw [Task.gated, h]

/-- A gate line that changes opens or closes the gate (R17, R58). -/
theorem Task.gated_of_some {g : Gate} (h : b.common.gate = some g) :
    b.gated v =
      if v.changeOf g.line = none then b
      else if v.changeOf g.line = some g.openWhen then { b with held := false }
      else { b with held := true, tickPhase := 0, clockDue := false } := by
  rw [Task.gated, h]
  dsimp only
  cases v.changeOf g.line with
  | none => rfl
  | some c => simp

/-- The gate's step leaves the state, the fields and the counts of a record. -/
theorem Task.gated_keeps (b : Task) (v : View) :
    (b.gated v).state = b.state ∧ (b.gated v).common = b.common ∧ (b.gated v).engine = b.engine ∧
      (b.gated v).runCount = b.runCount ∧ (b.gated v).overrunCount = b.overrunCount ∧
      (b.gated v).faultReason = b.faultReason ∧ (b.gated v).startTime = b.startTime := by
  cases hg : b.common.gate with
  | none =>
    rw [Task.gated_of_none hg]
    exact ⟨rfl, rfl, rfl, rfl, rfl, rfl, rfl⟩
  | some g =>
    rw [Task.gated_of_some hg]
    split
    · exact ⟨rfl, rfl, rfl, rfl, rfl, rfl, rfl⟩
    · split <;> exact ⟨rfl, rfl, rfl, rfl, rfl, rfl, rfl⟩

/-- What the first two steps make of a record, by the trigger edge and the wait (R15, R77). -/
theorem Task.reads_eq (b : Task) (v : View) :
    b.reads v =
      if v.triggerEdge b.common = false then some (b.gated v)
      else if b.engine.waits = true then some { b.gated v with engine := b.engine.releaseWait }
      else if b.state = .stopping ∨ b.common.policy = .ignore then
        some { b.gated v with overrunCount := sat16 b.overrunCount }
      else none := by
  unfold Task.reads
  extract_lets gated overrun
  have hgated : gated = b.gated v := by
    unfold gated
    cases hg : b.common.gate with
    | none => exact (Task.gated_of_none hg).symm
    | some g => exact (Task.gated_of_some hg).symm
  unfold overrun
  rw [sat16_eq, hgated]
  split
  · rfl
  · cases b.engine with
    | pulseTrain p r => rfl
    | _ => rfl

theorem gateStep_midway (hs : b.inRun = true) :
    gateStep k v (midway x k b outs reports) = midway x k (b.gated v) outs reports := by
  have hcommon := (b.gated_keeps v).2.1
  have hoffers : offerOf k (b.gated v) = offerOf k b := by
    funext r
    rw [offerOf, offerOf, hcommon]
  rw [gateStep, Work.on, State.mapTask_of_some _ _ midway_task?, if_pos hs]
  simp [midway, State.setTask, State.withOutputs, hoffers]

section
variable (hb : w.st.task? k = some b)
include hb

theorem triggerStep_noEdge (h : v.triggerEdge b.common = false) : triggerStep k v w = (w, true) := by
  rw [triggerStep, hb]
  simp only [h, Bool.not_false, if_true]

variable (hedge : v.triggerEdge b.common = true)
include hedge

/-- A trigger edge is ignored at rest, and in ARMED but for a task whose start is TRIGGER (R15). -/
theorem triggerStep_ignored
    (hs : b.state = .idle ∨ b.state = .done ∨ b.state = .faulted ∨ (b.state = .armed ∧ b.common.start ≠ .trigger)) :
    triggerStep k v w = (w, false) := by
  rw [triggerStep, hb]
  rcases hs with hs | hs | hs | ⟨hs, hstart⟩
  · simp [hedge, hs]
  · simp [hedge, hs]
  · simp [hedge, hs]
  · simp [hedge, hs, hstart]

/-- The start of a task whose start is TRIGGER (R12). -/
theorem triggerStep_started (hs : b.state = .armed) (hstart : b.common.start = .trigger) :
    triggerStep k v w = ((w.on fun s => s.beginRun k (v.level s) v.time).offerStarted k .trigger, false) := by
  rw [triggerStep, hb]
  simp only [hedge, hs, hstart, Bool.not_true, Bool.false_eq_true, if_false, if_true]

/-- A waiting WAIT segment is released (R77). -/
theorem triggerStep_released (hs : b.state = .running ∨ b.state = .stopping) (hwaits : b.engine.waits = true) :
    triggerStep k v w = (w.on fun s => s.setTask k { b with engine := b.engine.releaseWait }, true) := by
  rw [triggerStep, hb]
  rcases hs with hs | hs
  · simp [hedge, hs, hwaits]
  · simp [hedge, hs, hwaits]

/-- An overrun is counted alone (R15). -/
theorem triggerStep_counted (hs : b.state = .running ∨ b.state = .stopping) (hwaits : b.engine.waits = false)
    (hcount : b.state = .stopping ∨ b.common.policy = .ignore) :
    triggerStep k v w = (w.on fun s => s.setTask k { b with overrunCount := sat16 b.overrunCount }, true) := by
  rw [triggerStep, hb]
  rcases hs with hs | hs
  · simp [hedge, hs, hwaits, hcount.resolve_left (by simp [hs])]
  · simp [hedge, hs, hwaits]

/-- An overrun restarts the run (R16). -/
theorem triggerStep_restarted (hs : b.state = .running) (hwaits : b.engine.waits = false)
    (hpolicy : b.common.policy = .restart) :
    triggerStep k v w =
      (restartRun k v { b with overrunCount := sat16 b.overrunCount }
        (w.on fun s => s.setTask k { b with overrunCount := sat16 b.overrunCount }), false) := by
  rw [triggerStep, hb]
  simp [hedge, hs, hwaits, hpolicy]

/-- An overrun faults the task (R15, R24). -/
theorem triggerStep_faulted (hs : b.state = .running) (hwaits : b.engine.waits = false)
    (hpolicy : b.common.policy = .fault) :
    triggerStep k v w =
      ((w.on fun s => s.setTask k { b with overrunCount := sat16 b.overrunCount }).fault k .triggerOverrun, false) := by
  rw [triggerStep, hb]
  simp [hedge, hs, hwaits, hpolicy]

end

theorem on_setTask_midway {c : Task} : ((midway x k b outs []).on fun s => s.setTask k c) = midway x k c outs [] := by
  simp [midway, Work.on, State.setTask, State.withOutputs]

/-- A run whose trigger edge neither restarts nor faults it goes on to the working edges with the record read. -/
theorem triggerStep_of_reads (hs : b.state = .running ∨ b.state = .stopping) (h : b.reads v = some a) :
    triggerStep k v (midway x k (b.gated v) outs []) = (midway x k a outs [], true) := by
  obtain ⟨hstate, hcommon, hengine, -, hover, -⟩ := b.gated_keeps v
  have hs' : (b.gated v).state = .running ∨ (b.gated v).state = .stopping := by
    rw [hstate]
    exact hs
  rw [Task.reads_eq] at h
  split at h
  next hedge =>
    cases h
    exact triggerStep_noEdge midway_task? (by rw [hcommon, hedge])
  next hedge =>
    have hedge' : v.triggerEdge (b.gated v).common = true := by rw [hcommon, Bool.eq_true_of_not_eq_false hedge]
    split at h
    next hwaits =>
      cases h
      rw [triggerStep_released midway_task? hedge' hs' (by rw [hengine, hwaits]), on_setTask_midway, hengine]
    next hwaits =>
      split at h
      next hcount =>
        cases h
        rw [triggerStep_counted midway_task? hedge' hs' (by rw [hengine, Bool.eq_false_of_not_eq_true hwaits])
          (by rw [hstate, hcommon]; exact hcount), on_setTask_midway, hover]
      next => cases h

/-- The record read is of the same task, in the same state and with the same counts but for an overrun. -/
theorem Task.reads_keeps (h : b.reads v = some a) : a.state = b.state ∧ a.fixed = b.fixed := by
  obtain ⟨hstate, hcommon, hengine, -⟩ := b.gated_keeps v
  rw [Task.reads_eq] at h
  split at h
  · cases h
    exact ⟨hstate, Prod.ext hcommon (congrArg Engine.params hengine)⟩
  split at h
  · cases h
    exact ⟨hstate, Prod.ext hcommon (params_releaseWait _)⟩
  split at h
  · cases h
    exact ⟨hstate, Prod.ext hcommon (congrArg Engine.params hengine)⟩
  · cases h

/-- An update begins with the slot's record as it stands. -/
theorem of_dropUpdate (h : s.task? k = some b) : Work.of (s.dropUpdate k) = midway (s.dropUpdate k) k b s.lines.outputs [] := by
  have hset : (s.dropUpdate k).setTask k b = s.dropUpdate k := by
    have hslots : s.tasks.slots.set k (some b) = s.tasks.slots := h ▸ Bank.set_get ..
    exact congrArg (fun slots => { s.dropUpdate k with tasks := { (s.dropUpdate k).tasks with slots := slots } }) hslots
  exact congrArg Work.of hset.symm

/-- An update that neither restarts nor faults the run: its working edges, at the record read. -/
theorem takeUpdate_of_reads (hb : s.task? k = some b) (hs : b.state = .running ∨ b.state = .stopping)
    (h : b.reads v = some a) :
    takeUpdate k v (s.dropUpdate k) =
      (workingEdges k v (midway (s.dropUpdate k) k a s.lines.outputs [])).finish v.time := by
  unfold takeUpdate
  dsimp only
  rw [of_dropUpdate hb, gateStep_midway (inRun_iff.2 hs), triggerStep_of_reads hs h]
  rfl

theorem exec_taskUpdate_of_reads (h : TakesUpdate s k v b) (hs : b.state = .running ∨ b.state = .stopping)
    (hr : b.reads v = some a) :
    exec (.taskUpdate k turns) s =
      .next (((workingEdges k v (midway (s.dropUpdate k) k a s.lines.outputs [])).finish v.time).takeTurns turns) := by
  rw [exec_taskUpdate_of_decided h.outOfReset h.update h.decided, takeUpdate_of_reads h.record hs hr]

/-! ### The working edges, by kind -/

section
variable (h : Works s k v a)
include h

theorem Works.inRun : a.state = .running ∨ a.state = .stopping := by
  obtain ⟨b, -, hs, hr⟩ := h.taken
  rw [(Task.reads_keeps hr).1]
  exact hs

theorem Works.works : a.works = true := works_iff.2 ⟨h.inRun, h.unheld⟩

/-- An update at a working engine: the engine's own step. -/
theorem Works.exec {step : Work → Work}
    (hstep : workingEdges k v (midway (s.dropUpdate k) k a s.lines.outputs []) =
      step (midway (s.dropUpdate k) k a s.lines.outputs [])) :
    exec (.taskUpdate k turns) s =
      .next (((step (midway (s.dropUpdate k) k a s.lines.outputs [])).finish v.time).takeTurns turns) := by
  obtain ⟨b, hb, hs, hr⟩ := h.taken
  rw [exec_taskUpdate_of_reads hb hs hr, hstep]

end

/-- The working edges at a working engine. -/
theorem workingEdges_midway (h : a.works = true) :
    workingEdges k v (midway x k a outs reports) =
      (match a.engine with
       | .pulseTrain p r =>
         if v.clockEdge a.common then trainClock k v.time p r (a.state == .stopping) (midway x k a outs reports)
         else midway x k a outs reports
       | .eventCount p count =>
         if v.edge p.signal .active then countEdge k v.time p count (midway x k a outs reports)
         else midway x k a outs reports
       | .span p r => spanEdges k v p r (v.clockEdge a.common) (a.state == .running) (midway x k a outs reports)
       | .windowCount p r => windowEdges k v p r (v.clockEdge a.common) (midway x k a outs reports)
       | .position p r =>
         if a.state = .running then positionEdges k v p r (midway x k a outs reports) else midway x k a outs reports
       | .deadline p r => deadlineEdges k v p r (v.clockEdge a.common) (midway x k a outs reports)) := by
  rw [workingEdges, midway_task?]
  exact if_pos h

/-! ### A task clock of the TIMEBASE -/

theorem Clocked.exec (h : Clocked s k a) :
    exec (.taskClock k turns) s =
      .next (((engineClock k s.timebase.time a
        (midway s k { a with clockDue := false } s.lines.outputs [])).finish s.timebase.time).takeTurns turns) := by
  have hfallen : s.clockFallen k = true := by
    rw [State.clockFallen, h.record]
    exact Bool.and_eq_true_iff.2 ⟨works_iff.2 ⟨h.inRun, h.unheld⟩, h.due⟩
  rw [exec_taskClock_of_decided h.outOfReset h.decided, if_pos hfallen, takeClock, h.record]
  rfl

/-! ### The state an event is taken in -/

/-- Slot `k` takes an event in `s`, its record read as `a`: the steps begin in the state `x`, which is `s` but for the slot's
update, with the record `b`, which is `a` but for its task clock, and `left` is what they leave where they only give the slot
another record. -/
structure Takes (s x : State) (k : Slot) (a b : Task) (left : Task → State) : Prop where
  base : ∃ updates, x = { s with tasks := { s.tasks with updates := updates } } ∧
    ∀ j, j ≠ k → updates.get j = s.tasks.updates.get j
  record : ∃ a₀, s.task? k = some a₀ ∧ a₀.state ≠ .armed ∧ a.fixed = a₀.fixed
  inRun : a.state = .running ∨ a.state = .stopping
  clock : { b with clockDue := a.clockDue } = a
  leaves : ∀ e, left { a with engine := e } = x.setTask k { b with engine := e }

theorem Works.takes (h : Works s k v a) : Takes s (s.dropUpdate k) k a a (s.tookUpdate k) := by
  obtain ⟨b, hb, hs, hr⟩ := h.taken
  have hfixed := (Task.reads_keeps hr).2
  refine ⟨⟨_, rfl, fun j hj => Bank.get_set_ne _ _ hj⟩, ⟨b, hb.record, ?_, hfixed⟩, h.inRun, rfl, fun _ => rfl⟩
  rcases hs with hs | hs <;> simp [hs]

theorem Clocked.takes (h : Clocked s k a) :
    Takes s s k a { a with clockDue := false } fun b => s.tookClock k { b with clockDue := false } := by
  refine ⟨⟨_, rfl, fun j _ => rfl⟩, ⟨a, h.record, ?_, rfl⟩, h.inRun, rfl, fun _ => rfl⟩
  rcases h.inRun with hs | hs <;> simp [hs]

theorem Takes.of_record (ha : s.task? k = some a) (hs : a.state = .running ∨ a.state = .stopping) :
    Takes s s k a a (s.setTask k) := by
  refine ⟨⟨_, rfl, fun j _ => rfl⟩, ⟨a, ha, ?_, rfl⟩, hs, rfl, fun _ => rfl⟩
  rcases hs with hs | hs <;> simp [hs]

section
variable (h : Takes s x k a b left)
include h

theorem Takes.keeps : b.state = a.state ∧ b.fixed = a.fixed ∧ b.engine = a.engine ∧ b.common = a.common := by
  obtain ⟨-, -, -, hclock, -⟩ := h
  rw [← hclock]
  exact ⟨rfl, rfl, rfl, rfl⟩

theorem Takes.offerOf : offerOf k b = offerOf k a := by
  funext r
  rw [Machine.offerOf, Machine.offerOf, h.keeps.2.2.2]

theorem Takes.goesOn : ({ b with engine := e } : Task).goesOn ↔ a.goesOn := by
  obtain ⟨hstate, -, -, hcommon⟩ := h.keeps
  change b.state = _ ∧ b.common.repeats = _ ↔ _
  rw [hstate, hcommon]
  rfl

theorem Takes.outputs : x.lines = s.lines := by
  obtain ⟨_, rfl, -⟩ := h.base
  rfl

/-- What is left where only the record changes. -/
theorem Takes.left_eq (e : Engine) : left { a with engine := e } = (x.setTask k { b with engine := e }).withOutputs s.lines.outputs := by
  rw [h.leaves]
  exact congrArg (fun o => (x.setTask k { b with engine := e }).withOutputs o) (congrArg LineUnit.outputs h.outputs)

theorem Takes.left_self : left a = (x.setTask k b).withOutputs s.lines.outputs := by
  have hself := h.left_eq a.engine
  have hb : ({ b with engine := a.engine } : Task) = b := by rw [← h.keeps.2.2.1]
  rw [hb] at hself
  exact hself

theorem Takes.ownership (ho : s.OwnershipSound) : x.OwnershipSound := by
  obtain ⟨_, rfl, -⟩ := h.base
  exact ⟨ho.claims, ho.places, ho.ordered, ho.owners⟩

/-- The record in the state before the event. -/
theorem Takes.record_base : ∃ a₀, x.task? k = some a₀ ∧ a₀.state ≠ .armed ∧ b.fixed = a₀.fixed := by
  obtain ⟨a₀, ha₀, harmed, hfixed⟩ := h.record
  obtain ⟨_, rfl, -⟩ := h.base
  exact ⟨a₀, ha₀, harmed, h.keeps.2.1.trans hfixed⟩

/-- The state before the event, but for the slot's update. -/
theorem Takes.completed (hc : Completed x t k b now reports final e) : Completed s t k a now reports final e := by
  obtain ⟨left, rfl, hupdates⟩ := h.base
  obtain ⟨-, -, -, hclock, -⟩ := h
  rw [← hclock]
  obtain ⟨record, dependents, others, offers, hreports, blocks, link, updates⟩ := hc
  refine ⟨record, dependents, others, offers.trans ?_, hreports,
    ⟨blocks.pending, blocks.inReset, blocks.inputs, blocks.sampled, blocks.timebase, blocks.programs⟩, link,
    fun j hj => (updates j hj).trans (hupdates j hj)⟩
  exact State.offering_events_congr (s := s) (t := { s with tasks := { s.tasks with updates := left } }) rfl rfl now
    (reports.map (Machine.offerOf k b)) (laterOffers s k b final)

variable (ho : s.OwnershipSound) (he : e.params = a.engine.params)
include ho he

/-- A line of the slot that is no WAVE line is as the event's steps left it. -/
theorem Takes.completes_outputs {r : OutRole} (hl : (l, r) ∈ outputsOf a.common a.engine.params)
    (hwave : ∀ q, a.engine.params = .pulseTrain q → q.wave ≠ l) :
    (((midway x k { b with engine := e } outs reports).complete k now carry).finish now).lines.outputs.get l =
      outs.get l := by
  obtain ⟨hstate, hfixed, hengine, hcommon⟩ := h.keeps
  obtain ⟨a₀, ha₀, harmed, hfixed₀⟩ := h.record_base
  have harmed' : ({ b with engine := e } : Task).state ≠ .armed := by
    change b.state ≠ _
    rw [hstate]
    rcases h.inRun with hs | hs <;> simp [hs]
  have hl₀ : (l, r) ∈ outputsOf a₀.common a₀.engine.params := by
    have hsame : outputsOf a.common a.engine.params = outputsOf a₀.common a₀.engine.params :=
      congrArg (fun f : Common × KindParams => outputsOf f.1 f.2) (hfixed.symm.trans hfixed₀)
    exact hsame ▸ hl
  have hdeps := dependents_midway (outs := outs) (reports := reports) ha₀ harmed harmed'
  have hnot := not_mem_dependents_of_record
    (midway_task? (x := x) (k := k) (outs := outs) (reports := reports)) harmed'
  rw [Work.finish_eq, State.offering_lines, complete_outputs_other midway_task? harmed' fun q hq => hwave q (he ▸ hq)]
  · rfl
  · intro j hj c q hc hq hsame
    have hjk : j ≠ k := fun e => hnot (e ▸ hj)
    rw [midway_task?_ne hjk] at hc
    have howner := (h.ownership ho).owner_ne (r' := .wave) ha₀ hl₀ hjk
    rw [← hsame] at howner
    exact howner (((h.ownership ho).owners _ _ _).2 ⟨c, hc, hq ▸ wave_mem⟩)

variable (houts : ∀ l, (∀ r, (s.lines.outputs.get l).owner ≠ .task k r) → outs.get l = s.lines.outputs.get l)
include houts

/-- The event comes to the completion of the run. -/
theorem Takes.completes :
    Completed s (((midway x k { b with engine := e } outs reports).complete k now carry).finish now) k a now reports
      e.principal (({ b with engine := e } : Task).completed x.segments x.levelNow now carry).engine := by
  obtain ⟨hstate, hfixed, hengine, -⟩ := h.keeps
  obtain ⟨a₀, ha₀, harmed, hfixed₀⟩ := h.record_base
  refine h.completed (completed_midway (h.ownership ho) ha₀ harmed hfixed₀ ?_ ?_ ?_)
  · rw [hstate]
    exact h.inRun
  · rw [hengine]
    exact he
  · rw [h.outputs]
    exact houts

end

theorem completed_engine_goesOn (h : b.goesOn) {segments : Prog → List Segment} {level : InLine → Cond} :
    (b.completed segments level now carry).engine = b.engine.nextRun segments level now carry := by
  rw [Task.completed_goesOn h]

theorem completed_engine_ends (h : ¬b.goesOn) {segments : Prog → List Segment} {level : InLine → Cond} :
    (b.completed segments level now carry).engine = b.engine.ended := by
  rw [Task.completed_ends h]
  rfl

theorem marked_other (hne : ∀ m, a.common.mark = some m → l ≠ m.line) : (a.marked now outs).get l = outs.get l := by
  unfold Task.marked
  cases hm : a.common.mark with
  | none => rfl
  | some m => exact Bank.get_modify_ne _ _ (hne m hm)

theorem marked_self {m : Mark} (hm : a.common.mark = some m) :
    (a.marked now outs).get m.line = (outs.get m.line).pulse (now + BitVec.ofNat 48 m.ticks) := by
  rw [Task.marked, hm]
  exact Bank.get_modify_self ..

/-- A mark event changes no line of another slot. -/
theorem Takes.marked_other (h : Takes s x k a b left) (ho : s.OwnershipSound)
    (hl : ∀ r, (s.lines.outputs.get l).owner ≠ .task k r) : (b.marked now outs).get l = outs.get l := by
  refine Machine.marked_other fun m hm hsame => ?_
  obtain ⟨a₀, ha₀, -, hfixed⟩ := h.record
  have hcommon : b.common = a₀.common := congrArg Prod.fst (h.keeps.2.1.trans hfixed)
  exact hl .mark ((ho.owners _ _ _).2 ⟨a₀, ha₀, hsame ▸ mark_mem (hcommon ▸ hm)⟩)

/-- A completion with a mark event, of a kind without a WAVE line: what the counting kinds come to (R43, R85). -/
theorem Takes.completes_marked (h : Takes s x k a b left) (ho : s.OwnershipSound) (he : e.params = a.engine.params)
    (hkind : ∀ q, a.engine.params ≠ .pulseTrain q) :
    Completed s (((midway x k { b with engine := e } (b.marked now s.lines.outputs) reports).complete k now carry).finish
        now) k a now reports e.principal
      (({ b with engine := e } : Task).completed x.segments x.levelNow now carry).engine ∧
      MarkPulsed s (((midway x k { b with engine := e } (b.marked now s.lines.outputs) reports).complete k now
        carry).finish now) a now := by
  refine ⟨h.completes ho he fun l hl => h.marked_other ho hl, fun m hm => ?_⟩
  have hm' : b.common.mark = some m := by rw [h.keeps.2.2.2, hm]
  rw [h.completes_outputs ho he (mark_mem hm) fun q hq => absurd hq (hkind q),
    marked_self hm']
  exact ⟨rfl, rfl⟩

end Sys2Proof.Machine
end

section
/-! The counting kinds: an EVENT_COUNT to its limit (R85 to R90), a SPAN by its edges and its task clocks (R93 to R99), and a
WINDOW_COUNT until it closes (R102 to R107). -/

namespace Sys2Proof.Machine

variable {s t x : State} {w : Work} {k : Slot} {a b : Task} {e : Engine} {now : Time} {carry : Bool} {outs : Bank Output 8}
  {reports : List Report} {v : View} {turns : Turns} {left : Task → State} {c : Instr}

theorem nextRunCount_midway : (midway x k b outs reports).st.nextRunCount k = min 65535 (b.runCount + 1) := by
  rw [State.nextRunCount, midway_task?]
  exact sat16_eq _

/-- An event that only gives the slot another record. -/
theorem Takes.finish_left (h : Takes s x k a b left) (e : Engine) :
    (midway x k { b with engine := e } s.lines.outputs []).finish now = left { a with engine := e } :=
  finish_midway_nil.trans (h.left_eq e).symm

theorem Takes.finish_left_self (h : Takes s x k a b left) :
    (midway x k b s.lines.outputs []).finish now = left a := finish_midway_nil.trans h.left_self.symm

theorem midway_engine (he : b.engine = e) : midway x k b outs reports = midway x k { b with engine := e } outs reports := by
  rw [← he]

/-- The completion of a counting kind, with its mark event, and the run it leaves (R20, R43, R85). -/
theorem Takes.counting_completes {final : BitVec 32} (h : Takes s x k a b left) (ho : s.OwnershipSound)
    (he : e.params = a.engine.params) (hkind : ∀ q, a.engine.params ≠ .pulseTrain q) (hfinal : e.principal = final)
    (hexec : exec c s = .next ((((midway x k { b with engine := e } (b.marked now s.lines.outputs) reports).complete k now
      carry).finish now).takeTurns turns)) :
    ∃ t e', exec c s = .next (t.takeTurns turns) ∧ Completed s t k a now reports final e' ∧
      (a.goesOn → e' = e.nextRun x.segments x.levelNow now carry) ∧ (¬a.goesOn → e' = e.ended) ∧
      MarkPulsed s t a now := by
  obtain ⟨hcompleted, hmark⟩ := h.completes_marked (now := now) (carry := carry) (reports := reports) ho he hkind
  subst hfinal
  refine ⟨_, _, hexec, hcompleted, fun hgoes => ?_, fun hends => ?_, hmark⟩
  · exact completed_engine_goesOn (h.goesOn.2 hgoes)
  · exact completed_engine_ends fun hg => hends (h.goesOn.1 hg)

/-! ### EVENT_COUNT -/

section
variable {p : CountParams} {count : Nat}

theorem countEdge_below (h : count + 1 < p.limit) :
    countEdge k now p count (midway x k b outs []) = midway x k { b with engine := .eventCount p (count + 1) } outs [] := by
  rw [countEdge, setEngine_midway, if_neg (by omega)]

theorem countEdge_limit (h : count + 1 = p.limit) :
    countEdge k now p count (midway x k b outs []) =
      (midway x k { b with engine := .eventCount p (count + 1) } (b.marked now outs)
        [.countLimit p.limit (min 65535 (b.runCount + 1))]).complete k now false := by
  rw [countEdge, setEngine_midway, if_pos (by omega), nextRunCount_midway, offer_midway, markEvent_midway]
  rfl

end

/-- Settles O46: an edge is `countEdge` at the record read, and a task clock of the TIMEBASE leaves the engine. -/
theorem eventCountRunsToItsLimit : Obligations.EventCountRunsToItsLimit := by
  refine ⟨fun s k v a turns p count h he => ?_, fun s k a turns p count h he => ?_⟩
  · have hedges : v.edge p.signal .active = true →
        workingEdges k v (midway (s.dropUpdate k) k a s.lines.outputs []) =
          countEdge k v.time p count (midway (s.dropUpdate k) k a s.lines.outputs []) := by
      intro hedge
      rw [workingEdges_midway h.works, he]
      exact if_pos hedge
    refine ⟨fun hedge => ?_, fun hedge hlt => ?_, fun hedge heq ho => ?_⟩
    · have hnone : workingEdges k v (midway (s.dropUpdate k) k a s.lines.outputs []) =
          midway (s.dropUpdate k) k a s.lines.outputs [] := by
        rw [workingEdges_midway h.works, he]
        exact if_neg (by simp [hedge])
      rw [h.exec (step := id) hnone]
      exact congrArg (fun s => Host.Outcome.next (s.takeTurns turns)) h.takes.finish_left_self
    · rw [h.exec (hedges hedge), countEdge_below hlt, h.takes.finish_left]
    · obtain ⟨t, e, hexec, hcompleted, hgoes, hends, hmark⟩ := h.takes.counting_completes ho
        (e := .eventCount p (count + 1)) (by rw [he]; rfl) (fun q => by rw [he]; nofun) rfl
        (by rw [h.exec (hedges hedge), countEdge_limit heq])
      exact ⟨t, e, hexec, hcompleted, hgoes, hends, hmark⟩
  · have hclock : engineClock k s.timebase.time a (midway s k { a with clockDue := false } s.lines.outputs []) =
        midway s k { a with clockDue := false } s.lines.outputs [] := by
      rw [engineClock, he]
    rw [h.exec, hclock, h.takes.finish_left_self]

/-! ### SPAN -/

section
variable {p : SpanParams} {r : SpanRun} {overrange running : Bool}

theorem spanClose_midway :
    spanClose k now p r overrange (midway x k b outs []) =
      (midway x k { b with engine := .span p { r with phase := .awaiting } } (b.marked now outs)
        [.spanResult r.count r.spanStart overrange]).complete k now (!overrange) := by
  rw [spanClose, setEngine_midway, offer_midway, markEvent_midway]
  rfl

theorem spanTick_below (h : r.count + 1 < 4294967295) :
    spanTick k now p r (midway x k b outs []) =
      (midway x k { b with engine := .span p { r with count := r.count + 1 } } outs [], false) := by
  rw [spanTick, if_neg (show ¬Config.maxCount ≤ r.count + 1 from not_le.2 h), setEngine_midway]

theorem spanTick_overrange (h : r.count + 1 = 4294967295) :
    spanTick k now p r w = (spanClose k now p { r with count := 4294967295 } true w, true) := by
  rw [spanTick, if_pos (show Config.maxCount ≤ r.count + 1 from h.ge)]
  rfl

theorem spanClock_awaiting (h : r.phase = .awaiting) : spanClock k now p r w = w := by rw [spanClock, h]

theorem spanClock_counting (h : r.phase = .counting) : spanClock k now p r w = (spanTick k now p r w).1 := by
  rw [spanClock, h]

theorem spanEdges_overrange (h : r.phase = .counting) (hmax : r.count + 1 = 4294967295) :
    spanEdges k v p r true running w = spanClose k v.time p { r with count := 4294967295 } true w := by
  obtain ⟨phase, count, start⟩ := r
  obtain rfl : phase = .counting := h
  simp only [spanEdges, if_true, spanTick_overrange hmax]

theorem closes_eq (p : SpanParams) (v : View) :
    p.closes v = v.edge p.signal (if p.mode = .pulse then .inactive else .active) := by
  unfold SpanParams.closes
  cases p.mode <;> rfl

theorem spanEdges_awaiting (h : r.phase = .awaiting) (clock : Bool) :
    spanEdges k v p r clock running (midway x k b outs []) =
      if running = true ∧ v.edge p.signal .active = true then
        midway x k
          { b with
            engine := .span p { phase := .counting, count := if clock then 1 else 0, spanStart := v.time } } outs []
      else midway x k b outs [] := by
  rw [spanEdges, h]
  dsimp only
  rw [setEngine_midway]
  simp only [Bool.and_eq_true]

/-- The clock edge of an open span, before its closing edge (R96, R99). -/
theorem spanEdges_counting (h : r.phase = .counting) (he : b.engine = .span p r) (clock : Bool) {n : Nat}
    (hn : n = r.count + (if clock then 1 else 0)) (hlt : n < 4294967295) :
    spanEdges k v p r clock running (midway x k b outs []) =
      if p.closes v then spanClose k v.time p { r with count := n } false (midway x k b outs [])
      else midway x k { b with engine := .span p { r with count := n } } outs [] := by
  obtain ⟨phase, count, start⟩ := r
  obtain rfl : phase = .counting := h
  cases clock with
  | false =>
    obtain rfl : n = count := hn
    rw [← midway_engine he]
    rfl
  | true =>
    obtain rfl : n = count + 1 := hn
    have htick := spanTick_below (k := k) (now := v.time) (x := x) (b := b) (outs := outs) (p := p)
      (r := { phase := .counting, count := count, spanStart := start }) hlt
    simp only [spanEdges, if_true, htick, Bool.false_eq_true, if_false, spanClose_midway]
    rfl

end

/-- Settles O47: the edges of an update are `spanEdges` at the record read, awaiting and counting. -/
theorem spanEdgesOpenCountAndClose : Obligations.SpanEdgesOpenCountAndClose := by
  intro s k v a turns p r clock closing n h he hclock hclosing hn
  have hedges : workingEdges k v (midway (s.dropUpdate k) k a s.lines.outputs []) =
      spanEdges k v p r clock (a.state == .running) (midway (s.dropUpdate k) k a s.lines.outputs []) := by
    rw [workingEdges_midway h.works, he, hclock]
  rw [← closes_eq] at hclosing
  refine ⟨fun hphase => ⟨fun hopen => ?_, fun hopen => ?_⟩, fun hphase hlt hnot => ?_, fun hphase hlt hcloses ho => ?_⟩
  · rw [h.exec hedges, spanEdges_awaiting hphase, if_pos (by simpa using hopen), h.takes.finish_left]
  · rw [h.exec hedges, spanEdges_awaiting hphase, if_neg (by simpa using hopen), h.takes.finish_left_self]
  · rw [h.exec hedges, spanEdges_counting hphase he clock hn hlt, if_neg (by rw [← hclosing, hnot]; simp),
      h.takes.finish_left]
  · obtain ⟨t, e, hexec, hcompleted, hgoes, hends, hmark⟩ := h.takes.counting_completes (c := .taskUpdate k turns) ho
      (e := .span p { r with phase := .awaiting, count := n }) (by rw [he]; rfl) (fun q => by rw [he]; nofun) rfl
      (by rw [h.exec hedges, spanEdges_counting hphase he clock hn hlt, if_pos (by rw [← hclosing, hcloses]),
        spanClose_midway])
    refine ⟨t, e, hexec, hcompleted, fun hg hmode => ?_, fun hg hmode => ?_, hends, hmark⟩
    · rw [hgoes hg, Engine.nextRun, hmode]
      rfl
    · rw [hgoes hg, Engine.nextRun, hmode]
      rfl

/-- Settles O48: a task clock of either source is `spanTick` in an open span, and nothing while it awaits. -/
theorem spanClocksCountToOverrange : Obligations.SpanClocksCountToOverrange := by
  intro s k a turns c now left p r h he
  have hover : ∀ {x : State} {b : Task}, Takes s x k a b left → s.OwnershipSound →
      exec c s = .next (((spanClose k now p { r with count := 4294967295 } true
        (midway x k b s.lines.outputs [])).finish now).takeTurns turns) →
      ∃ t e, exec c s = .next (t.takeTurns turns) ∧
        Completed s t k a now [.spanResult 4294967295 r.spanStart true] (BitVec.ofNat 32 4294967295) e ∧
        (a.goesOn → e = .span p { phase := .awaiting, count := 0, spanStart := 0 }) ∧
        (¬a.goesOn → e = .span p { r with phase := .awaiting, count := 4294967295 }) ∧ MarkPulsed s t a now := by
    intro x b htakes ho hexec
    rw [spanClose_midway] at hexec
    exact htakes.counting_completes ho (by rw [he]; rfl) (fun q => by rw [he]; nofun) rfl hexec
  cases h with
  | timebase h =>
    have hclock : engineClock k s.timebase.time a (midway s k { a with clockDue := false } s.lines.outputs []) =
        spanClock k s.timebase.time p r (midway s k { a with clockDue := false } s.lines.outputs []) := by
      rw [engineClock, he]
    have htakes := h.takes
    refine ⟨fun _ hphase => ?_, fun _ hphase hlt => ?_, fun hphase heq ho => hover htakes ho ?_⟩
    · rw [h.exec, hclock, spanClock_awaiting hphase, htakes.finish_left_self]
    · rw [h.exec, hclock, spanClock_counting hphase, spanTick_below hlt]
      exact congrArg (fun s => Host.Outcome.next (s.takeTurns turns)) (htakes.finish_left _)
    · rw [h.exec, hclock, spanClock_counting hphase, spanTick_overrange heq]
  | line v h hedge =>
    have hedges : workingEdges k v (midway (s.dropUpdate k) k a s.lines.outputs []) =
        spanEdges k v p r true (a.state == .running) (midway (s.dropUpdate k) k a s.lines.outputs []) := by
      rw [workingEdges_midway h.works, he, hedge]
    refine ⟨nofun, nofun, fun hphase heq ho => hover h.takes ho ?_⟩
    rw [h.exec hedges, spanEdges_overrange hphase heq]

/-! ### WINDOW_COUNT -/

section
variable {p : WindowParams} {r : WindowRun} {opening signal clock closing : Bool} {n m : Nat}

/-- What a WINDOW_COUNT takes from one event, by its phase: an update or a task clock (R103 to R106). -/
def windowEvent (k : Slot) (now : Time) (p : WindowParams) (r : WindowRun) (opening signal clock closing : Bool)
    (w : Work) : Work :=
  match r.phase with
  | .awaiting =>
    if opening then
      w.setEngine k
        (.windowCount p { phase := .counting, count := if signal then 1 else 0, length := if clock then 1 else 0 })
    else w
  | .counting => windowTake k now p r signal clock closing w

theorem windowEdges_eq :
    windowEdges k v p r clock w =
      windowEvent k v.time p r (p.windowEdge v .active) (v.edge p.signal .active) clock (p.windowEdge v .inactive) w := by
  obtain ⟨phase, count, length⟩ := r
  cases phase <;> rfl

theorem windowClock_eq : windowClock k now p r w = windowEvent k now p r false false true false w := by
  obtain ⟨phase, count, length⟩ := r
  cases phase <;> rfl

theorem windowEvent_opened (h : r.phase = .awaiting) :
    windowEvent k now p r true signal clock closing (midway x k b outs []) =
      midway x k
        { b with
          engine := .windowCount p
            { phase := .counting, count := if signal then 1 else 0, length := if clock then 1 else 0 } } outs [] := by
  rw [windowEvent, h]
  exact setEngine_midway _

theorem windowEvent_waits (h : r.phase = .awaiting) : windowEvent k now p r false signal clock closing w = w := by
  rw [windowEvent, h]
  rfl

theorem windowEvent_counting (h : r.phase = .counting) :
    windowEvent k now p r opening signal clock closing w = windowTake k now p r signal clock closing w := by
  rw [windowEvent, h]

/-- The event ends the window: its closing edge, or the duration reached by a task clock (R105). -/
def WindowParams.ended (p : WindowParams) (clock closing : Bool) (length : Nat) : Bool :=
  match p.source with
  | .line _ => closing
  | .duration d => clock && decide (d ≤ length)

/-- A window takes what comes with an event, and closes where the event ends it or a count is full (R104 to R106). -/
theorem windowTake_eq (hn : n = r.count + if signal then 1 else 0) (hm : m = r.length + if clock then 1 else 0) :
    windowTake k now p r signal clock closing (midway x k b outs []) =
      if p.ended clock closing m = true ∨ (signal = true ∧ 4294967295 ≤ n) ∨ (clock = true ∧ 4294967295 ≤ m) then
        (midway x k { b with engine := .windowCount p { phase := .awaiting, count := n, length := m } } (b.marked now outs)
          [.windowResult n m]).complete k now false
      else midway x k { b with engine := .windowCount p { phase := .counting, count := n, length := m } } outs [] := by
  have hcount : (if signal = true then r.count + 1 else r.count) = n := by rw [hn]; split <;> rfl
  have hlength : (if clock = true then r.length + 1 else r.length) = m := by rw [hm]; split <;> rfl
  unfold windowTake
  rw [hcount, hlength]
  simp only [setEngine_midway, offer_midway, markEvent_midway, Bool.or_eq_true, Bool.and_eq_true, decide_eq_true_eq,
    List.nil_append]
  rfl

/-- Within its bounds a window closes exactly at its end or at a full count. -/
theorem windowTake_closes_iff (hcount : r.count < 4294967295) (hlength : r.length < 4294967295)
    (hn : n = r.count + if signal then 1 else 0) (hm : m = r.length + if clock then 1 else 0) :
    (p.ended clock closing m = true ∨ (signal = true ∧ 4294967295 ≤ n) ∨ (clock = true ∧ 4294967295 ≤ m)) ↔
      (p.ended clock closing m = true ∨ n = 4294967295 ∨ m = 4294967295) := by
  refine or_congr Iff.rfl (or_congr ?_ ?_)
  · cases signal
    · exact iff_of_false (by simp) (by simp at hn; omega)
    · simp at hn
      exact ⟨fun h => by omega, fun h => ⟨rfl, by omega⟩⟩
  · cases clock
    · exact iff_of_false (by simp) (by simp at hm; omega)
    · simp at hm
      exact ⟨fun h => by omega, fun h => ⟨rfl, by omega⟩⟩

/-- The end of a window as the claims tell it, the length being below the duration. -/
theorem ended_eq {closing' : Bool} (hline : ∀ l, p.source = .line l → closing = closing')
    (hduration : ∀ d, p.source = .duration d → closing = (clock && decide (r.length + 1 = d)))
    (hbelow : ∀ d, p.source = .duration d → r.length < d) (hm : m = r.length + if clock then 1 else 0) :
    p.ended clock closing' m = closing := by
  unfold WindowParams.ended
  cases hs : p.source with
  | line l => exact (hline l hs).symm
  | duration d =>
    have hlt := hbelow d hs
    rw [hduration d hs]
    cases clock with
    | false => rfl
    | true =>
      simp at hm
      exact congrArg (true && ·) (decide_eq_decide.2 (by omega))

theorem windowEdge_line {l : InLine} (h : p.source = .line l) (c : Cond) : p.windowEdge v c = v.edge l c := by
  rw [WindowParams.windowEdge, h]

theorem windowEdge_duration {d : Nat} (h : p.source = .duration d) (c : Cond) : p.windowEdge v c = false := by
  rw [WindowParams.windowEdge, h]

end

/-- Settles O49: an update and a task clock are both `windowEvent`, which opens, counts or closes. -/
theorem windowCountsUntilItCloses : Obligations.WindowCountsUntilItCloses := by
  intro s k a turns c now left p r opening closing signal clock n m he hevent hbelow hcount hlength hn hm
  obtain ⟨x, b, closing', htakes, hexec, hline, hduration⟩ : ∃ x b closing', Takes s x k a b left ∧
      exec c s = .next (((windowEvent k now p r opening signal clock closing'
        (midway x k b s.lines.outputs [])).finish now).takeTurns turns) ∧
      (∀ l, p.source = .line l → closing = closing') ∧
      ∀ d, p.source = .duration d → closing = (clock && decide (r.length + 1 = d)) := by
    rcases hevent with ⟨v, h, rfl, rfl, rfl, rfl, rfl, hline, hduration⟩ | ⟨h, rfl, rfl, rfl, rfl, rfl, rfl, hline, hduration⟩
    · have hedges : workingEdges k v (midway (s.dropUpdate k) k a s.lines.outputs []) =
          windowEvent k v.time p r (p.windowEdge v .active) (v.edge p.signal .active) (v.clockEdge a.common)
            (p.windowEdge v .inactive) (midway (s.dropUpdate k) k a s.lines.outputs []) := by
        rw [workingEdges_midway h.works, he]
        exact windowEdges_eq
      have hopening : opening = p.windowEdge v .active := by
        cases hs : p.source with
        | line l => rw [(hline l hs).1, windowEdge_line hs]
        | duration d => rw [(hduration d hs).1, windowEdge_duration hs]
      subst hopening
      exact ⟨_, _, _, h.takes, h.exec hedges, fun l hs => (hline l hs).2.trans (windowEdge_line hs _).symm,
        fun d hs => (hduration d hs).2⟩
    · refine ⟨_, _, false, h.takes, ?_, hline, fun d hs => by rw [hduration d hs, Bool.true_and]⟩
      rw [h.exec, engineClock, he]
      exact congrArg (fun w => Host.Outcome.next ((Work.finish w _).takeTurns turns)) windowClock_eq
  refine ⟨fun hphase hopens => ?_, fun hphase hopens => ?_, fun hphase hopen hnlt hmlt => ?_, fun hphase hcloses ho => ?_⟩
  · subst hopens
    rw [hexec, windowEvent_opened hphase, htakes.finish_left]
  · subst hopens
    rw [hexec, windowEvent_waits hphase, htakes.finish_left_self]
  · have hended := ended_eq hline hduration (fun d hs => hbelow d hs hphase) hm
    rw [hexec, windowEvent_counting hphase, windowTake_eq hn hm, if_neg, htakes.finish_left]
    · rw [hphase]
    · rw [windowTake_closes_iff hcount hlength hn hm, hended, hopen]
      simp only [Bool.false_eq_true, false_or]
      omega
  · have hended := ended_eq hline hduration (fun d hs => hbelow d hs hphase) hm
    rw [windowEvent_counting hphase, windowTake_eq hn hm, if_pos (by
      rw [windowTake_closes_iff hcount hlength hn hm, hended]
      exact hcloses)] at hexec
    obtain ⟨t, e, hexec, hcompleted, hgoes, hends, hmark⟩ := htakes.counting_completes ho (by rw [he]; rfl)
      (fun q => by rw [he]; nofun) rfl hexec
    refine ⟨t, e, hexec, hcompleted, fun hg => ?_, hends, hmark⟩
    rw [hgoes hg]
    change ∃ phase, Engine.windowCount p p.fresh = _ ∧ _
    unfold WindowParams.fresh
    cases hs : p.source with
    | line l => exact ⟨_, rfl, by simp⟩
    | duration d => exact ⟨_, rfl, by simp⟩

end Sys2Proof.Machine
end

section
/-! The PULSE_TRAIN: its segments, its loops and its completion (R70 to R82). -/

namespace Sys2Proof.Machine

variable {s t x : State} {w : Work} {k : Slot} {a b : Task} {e : Engine} {now : Time} {carry : Bool} {outs : Bank Output 8}
  {reports : List Report} {v : View} {turns : Turns} {left : Task → State} {c : Instr} {p : TrainParams} {r : TrainRun}
  {stopping : Bool} {g : Segment} {index loops : Nat}

/-- The output lines with the WAVE line of a train at the level of its segment `index` (R71). -/
def TrainParams.driven (p : TrainParams) (segments : Prog → List Segment) (index : Nat) (outs : Bank Output 8) :
    Bank Output 8 :=
  match (segments p.program)[index]? with
  | some g => outs.modify p.wave fun o => o.drive (g.level == .active)
  | none => outs

theorem driven_of_some {segments : Prog → List Segment} (h : (segments p.program)[index]? = some g) :
    p.driven segments index outs = outs.modify p.wave fun o => o.drive (g.level == .active) := by
  rw [TrainParams.driven, h]

/-- The report of a segment's end, where the segment is flagged (R74, R82). -/
def TrainParams.endReports (p : TrainParams) (segments : Prog → List Segment) (r : TrainRun) : List Report :=
  match (segments p.program)[r.index]? with
  | some g => if g.reportEnd then [.segmentEnd r.index (loopsRemaining p.loops r.loopsDone)] else []
  | none => []

theorem atSegment_index (segments : List Segment) (index loops : Nat) :
    (TrainRun.atSegment segments index loops).index = index := by
  unfold TrainRun.atSegment
  split <;> rfl

theorem atSegment_of_some {segments : List Segment} (h : segments[index]? = some g) :
    TrainRun.atSegment segments index loops =
      { index := index, remaining := g.duration, loopsDone := loops, waiting := g.wait } := by
  rw [TrainRun.atSegment, h]

theorem trainBegin_midway :
    trainBegin k p index loops (midway x k b outs reports) =
      midway x k { b with engine := .pulseTrain p (.atSegment (x.segments p.program) index loops) }
        (p.driven x.segments index outs) reports := by
  have hst : (trainBegin k p index loops (midway x k b outs reports)).st =
      (midway x k { b with engine := .pulseTrain p (.atSegment (x.segments p.program) index loops) } outs
        reports).st.driveWave (.pulseTrain p (.atSegment (x.segments p.program) index loops)) :=
    congrArg (fun w => w.st.driveWave (.pulseTrain p (.atSegment (x.segments p.program) index loops)))
      (setEngine_midway (x := x) (k := k) (b := b) (outs := outs) (reports := reports)
        (.pulseTrain p (.atSegment (x.segments p.program) index loops)))
  have hdrive : (midway x k { b with engine := .pulseTrain p (.atSegment (x.segments p.program) index loops) } outs
      reports).st.driveWave (.pulseTrain p (.atSegment (x.segments p.program) index loops)) =
      (midway x k { b with engine := .pulseTrain p (.atSegment (x.segments p.program) index loops) }
        (p.driven x.segments index outs) reports).st := by
    rw [State.driveWave, atSegment_index, TrainParams.driven]
    change (match (x.segments p.program)[index]? with
      | some g => State.onOutput _ _ _
      | none => _) = _
    cases (x.segments p.program)[index]? <;> rfl
  exact congrArg (fun st => ({ st := st, own := reports.map (offerOf k b), free := [] } : Work)) (hst.trans hdrive)

theorem trainSegmentEnd_midway :
    trainSegmentEnd k now p r stopping (midway x k b outs []) =
      if r.index + 1 < (x.segments p.program).length then
        trainBegin k p (r.index + 1) r.loopsDone (midway x k b outs (p.endReports x.segments r))
      else trainLoopDone k now p r stopping (midway x k b outs (p.endReports x.segments r)) := by
  have hoffer : (if (match ((midway x k b outs []).st.segments p.program)[r.index]? with
      | some g => g.reportEnd
      | none => false) = true then
        (midway x k b outs []).offer k (.segmentEnd r.index (loopsRemaining p.loops r.loopsDone))
      else midway x k b outs []) = midway x k b outs (p.endReports x.segments r) := by
    rw [TrainParams.endReports, offer_midway]
    change (if (match (x.segments p.program)[r.index]? with
      | some g => g.reportEnd
      | none => false) = true then _ else _) = _
    cases (x.segments p.program)[r.index]? with
    | none => rfl
    | some g =>
      dsimp only
      by_cases hflag : g.reportEnd = true
      · rw [if_pos hflag, if_pos hflag]
        rfl
      · rw [if_neg hflag, if_neg hflag]
  unfold trainSegmentEnd
  exact congrArg (fun w => if r.index + 1 < (x.segments p.program).length then trainBegin k p (r.index + 1) r.loopsDone w
    else trainLoopDone k now p r stopping w) hoffer

/-- The loop is done and the run is over (R76). -/
theorem trainLoopDone_over (h : stopping = true ∨ (p.loops ≠ 0 ∧ sat16 r.loopsDone = p.loops)) :
    trainLoopDone k now p r stopping (midway x k b outs reports) =
      (midway x k
        { b with
          engine := .pulseTrain p { r with remaining := 0, loopsDone := sat16 r.loopsDone, waiting := false } }
        (outs.modify p.wave fun o => o.drive false) (reports ++ [.trainEnd (sat16 r.loopsDone)])).complete k now false := by
  rw [trainLoopDone]
  dsimp only
  rw [if_pos h, setEngine_midway]
  exact congrArg (fun w => Work.complete w k now false)
    (offer_midway (x := x) (k := k) (outs := outs.modify p.wave fun o => o.drive false) (reports := reports)
      (b := { b with
        engine := .pulseTrain p { r with remaining := 0, loopsDone := sat16 r.loopsDone, waiting := false } })
      (.trainEnd (sat16 r.loopsDone)))

/-- The loop is done and the next begins (R75). -/
theorem trainLoopDone_again (h : ¬(stopping = true ∨ (p.loops ≠ 0 ∧ sat16 r.loopsDone = p.loops))) :
    trainLoopDone k now p r stopping w = trainBegin k p 0 (sat16 r.loopsDone) w := by
  rw [trainLoopDone]
  exact if_neg h

theorem trainClock_waiting (h : r.waiting = true) : trainClock k now p r stopping w = w := by
  rw [trainClock]
  exact if_pos h

theorem trainClock_runs (h : r.waiting = false) (hr : r.remaining - 1 ≠ 0) :
    trainClock k now p r stopping (midway x k b outs []) =
      midway x k { b with engine := .pulseTrain p { r with remaining := r.remaining - 1 } } outs [] := by
  rw [trainClock, if_neg (by simp [h]), if_neg hr, setEngine_midway]

theorem trainClock_ends (h : r.waiting = false) (hr : r.remaining - 1 = 0) :
    trainClock k now p r stopping w = trainSegmentEnd k now p r stopping w := by
  rw [trainClock, if_neg (by simp [h]), if_pos hr]

/-- A task clock of either source at a train's engine. -/
theorem train_of_clockFalls (h : ClockFalls s k a turns c now left) (he : a.engine = .pulseTrain p r) :
    ∃ x b, Takes s x k a b left ∧
      exec c s = .next (((trainClock k now p r (a.state == .stopping)
        (midway x k b s.lines.outputs [])).finish now).takeTurns turns) := by
  cases h with
  | timebase h =>
    have hclock : engineClock k s.timebase.time a (midway s k { a with clockDue := false } s.lines.outputs []) =
        trainClock k s.timebase.time p r (a.state == .stopping)
          (midway s k { a with clockDue := false } s.lines.outputs []) := by
      rw [engineClock, he]
    exact ⟨_, _, h.takes, by rw [h.exec, hclock]⟩
  | line v h hedge =>
    refine ⟨_, _, h.takes, h.exec ?_⟩
    rw [workingEdges_midway h.works, he]
    exact if_pos hedge

theorem Takes.segments (h : Takes s x k a b left) : x.segments = s.segments := by
  obtain ⟨_, rfl, -⟩ := h.base
  rfl

/-- The next segment or the next loop begins. -/
theorem Takes.finish_begun (h : Takes s x k a b left) (hg : (s.segments p.program)[index]? = some g)
    (ht : t = left { a with
      engine := .pulseTrain p { index := index, remaining := g.duration, loopsDone := loops, waiting := g.wait } }) :
    (trainBegin k p index loops (midway x k b s.lines.outputs reports)).finish now =
      State.offering
        { t with
          lines :=
            { t.lines with
              outputs := t.lines.outputs.set p.wave
                { t.lines.outputs.get p.wave with
                  level :=
                    if g.level = .active then otherLevel (t.lines.outputs.get p.wave).idle
                    else (t.lines.outputs.get p.wave).idle } } }
        now (reports.map (Machine.offerOf k a)) [] := by
  have hdrive : x.lines.outputs.modify p.wave (fun o => o.drive (g.level == .active)) =
      x.lines.outputs.set p.wave
        { x.lines.outputs.get p.wave with
          level :=
            if g.level = .active then otherLevel (x.lines.outputs.get p.wave).idle
            else (x.lines.outputs.get p.wave).idle } := by
    unfold Bank.modify Output.drive
    cases g.level <;> rfl
  rw [h.leaves] at ht
  subst ht
  rw [trainBegin_midway, h.segments, atSegment_of_some hg, driven_of_some hg, ← h.outputs, hdrive, finish_midway,
    ← h.offerOf]
  rfl

/-- The completion of a train, its WAVE line idle unless a next run begins ACTIVE (R71, R76). -/
theorem Takes.train_completes (h : Takes s x k a b left) (ho : s.OwnershipSound) (he : a.engine = .pulseTrain p r)
    (hg : (s.segments p.program)[0]? = some g) {y : TrainRun} (hexec : exec c s = .next ((((midway x k
      { b with engine := .pulseTrain p y } (s.lines.outputs.modify p.wave fun o => o.drive false) reports).complete k now
        false).finish now).takeTurns turns)) :
    ∃ t e', exec c s = .next (t.takeTurns turns) ∧
      Completed s t k a now reports (BitVec.ofNat 32 y.loopsDone) e' ∧
      (a.goesOn → e' = .pulseTrain p { index := 0, remaining := g.duration, loopsDone := 0, waiting := g.wait }) ∧
      (¬a.goesOn → e' = .pulseTrain p y) ∧
      ((t.lines.outputs.get p.wave).level = (s.lines.outputs.get p.wave).idle ↔ ¬(a.goesOn ∧ g.level = .active)) := by
  obtain ⟨a₀, ha₀, harmed, hfixed₀⟩ := h.record_base
  obtain ⟨hstate, hfixed, hengine, hcommon⟩ := h.keeps
  have hparams : (Engine.pulseTrain p y).params = a.engine.params := by rw [he]; rfl
  have hwave : (p.wave, OutRole.wave) ∈ outputsOf a₀.common a₀.engine.params := by
    have hkind : KindParams.pulseTrain p = a₀.engine.params :=
      (hparams.trans (congrArg Engine.params hengine).symm).trans (congrArg Prod.snd hfixed₀)
    rw [← hkind]
    exact wave_mem
  have howns := ((h.ownership ho).owners p.wave k .wave).2 ⟨a₀, ha₀, hwave⟩
  rw [h.outputs] at howns
  have hgets : ∀ l, (∀ r, (s.lines.outputs.get l).owner ≠ .task k r) →
      (s.lines.outputs.modify p.wave fun o => o.drive false).get l = s.lines.outputs.get l :=
    fun l hl => Bank.get_modify_ne _ _ fun e => hl .wave (e ▸ howns)
  have hb : ({ b with engine := .pulseTrain p y } : Task).state ≠ .armed := by
    change b.state ≠ _
    rw [hstate]
    rcases h.inRun with hs | hs <;> simp [hs]
  have hdeps := dependents_midway (outs := s.lines.outputs.modify p.wave fun o => o.drive false) (reports := reports)
    ha₀ harmed hb
  have hothers : ∀ i ∈ (midway x k { b with engine := .pulseTrain p y }
      (s.lines.outputs.modify p.wave fun o => o.drive false) reports).st.dependents k,
      (midway x k { b with engine := .pulseTrain p y } (s.lines.outputs.modify p.wave fun o => o.drive false)
        reports).st.WaveNot p.wave i := by
    intro i hi d q hd hq hsame
    have hik : i ≠ k := fun e => not_mem_dependents_of_record midway_task? hb (e ▸ hi)
    rw [midway_task?_ne hik] at hd
    have howner := (h.ownership ho).owner_ne (r' := .wave) ha₀ hwave hik
    rw [← hsame] at howner
    exact howner (((h.ownership ho).owners _ _ _).2 ⟨d, hd, hq ▸ wave_mem⟩)
  have hdriven : ((midway x k { b with engine := .pulseTrain p y }
      (s.lines.outputs.modify p.wave fun o => o.drive false) reports).st.lines.outputs.get p.wave) =
      (s.lines.outputs.get p.wave).drive false := Bank.get_modify_self ..
  have hcompleted := h.completes (e := .pulseTrain p y) (now := now) (carry := false) (reports := reports) ho hparams hgets
  refine ⟨_, _, hexec, hcompleted, fun hgoes => ?_, fun hends => ?_, ?_⟩
  · rw [completed_engine_goesOn (h.goesOn.2 hgoes), h.segments]
    exact congrArg (Engine.pulseTrain p) (atSegment_of_some hg)
  · exact completed_engine_ends fun hgoes => hends (h.goesOn.1 hgoes)
  · rw [Work.finish_eq, State.offering_lines]
    by_cases hgoes : a.goesOn
    · have hgoes' := h.goesOn (e := .pulseTrain p y) |>.2 hgoes
      have hengine' : (({ b with engine := .pulseTrain p y } : Task).completed x.segments x.levelNow now false).engine =
          .pulseTrain p { index := 0, remaining := g.duration, loopsDone := 0, waiting := g.wait } := by
        rw [completed_engine_goesOn hgoes', h.segments]
        exact congrArg (Engine.pulseTrain p) (atSegment_of_some hg)
      rw [complete_outputs_self (g := g) midway_task? hb hgoes' hothers hengine' (by
        change (x.segments p.program)[0]? = _
        rw [h.segments, hg]), hdriven]
      cases g.level with
      | inactive => simp
      | active => simp [hgoes, otherLevel_ne]
    · rw [complete_outputs_ended midway_task? hb (fun hg => hgoes (h.goesOn.1 hg)) hothers, hdriven]
      simp [hgoes]

/-- Settles O45: a task clock is `trainClock` at the record read, which waits, counts, begins a segment or completes. -/
theorem pulseTrainPlaysItsSegments : Obligations.PulseTrainPlaysItsSegments := by
  refine ⟨fun s k v a turns p r h he hedge => ?_, fun s k a turns c now left p r h he => ?_⟩
  · have hnone : workingEdges k v (midway (s.dropUpdate k) k a s.lines.outputs []) =
        midway (s.dropUpdate k) k a s.lines.outputs [] := by
      rw [workingEdges_midway h.works, he]
      exact if_neg (by simp [hedge])
    rw [h.exec (step := id) hnone]
    exact congrArg (fun s => Host.Outcome.next (s.takeTurns turns)) h.takes.finish_left_self
  · obtain ⟨x, b, htakes, hexec⟩ := train_of_clockFalls h he
    refine ⟨fun hwait => ?_, fun hwait hremaining => ?_, fun g first hwait hremaining hg hfirst => ?_⟩
    · rw [hexec, trainClock_waiting hwait, htakes.finish_left_self]
    · rw [hexec, trainClock_runs hwait (by omega), htakes.finish_left]
    · have hreports : p.endReports x.segments r = first := by
        rw [htakes.segments, TrainParams.endReports, hg, hfirst]
        rfl
      rw [trainClock_ends hwait (by omega), trainSegmentEnd_midway, htakes.segments] at hexec
      rw [htakes.segments] at hreports
      rw [hreports] at hexec
      refine ⟨fun next i loops t hnext hseg ht => ?_, fun loops begin hlast hbegin hloops hover ho => ?_⟩
      · subst ht
        rcases hnext with ⟨hlt, rfl, rfl⟩ | ⟨hlast, rfl, hloops, hrun, hagain⟩
        · rw [hexec, if_pos hlt, htakes.finish_begun hseg rfl]
        · rw [hexec, if_neg (by omega), trainLoopDone_again, sat16_eq, ← hloops, htakes.finish_begun hseg rfl]
          · rw [sat16_eq, ← hloops]
            rintro (hstop | hdone)
            · simp [hrun] at hstop
            · exact hagain hdone
      · rw [if_neg (by omega), trainLoopDone_over (by
          rw [sat16_eq, ← hloops]
          exact hover.imp (fun hs => by simp [hs]) id), sat16_eq, ← hloops] at hexec
        obtain ⟨t, e, hexec, hcompleted, hgoes, hends, hlevel⟩ := htakes.train_completes ho he hbegin hexec
        refine ⟨t, e, hexec, hcompleted, hgoes, fun hg => ?_, hlevel⟩
        rw [hends hg, hwait]

end Sys2Proof.Machine
end

section
/-! The DEADLINE: its kicks, its clock edges and its expiry (R126 to R133). -/

namespace Sys2Proof.Machine

variable {s t x : State} {w : Work} {k : Slot} {a b : Task} {now : Time} {outs : Bank Output 8} {reports : List Report}
  {v : View} {turns : Turns} {left : Task → State} {c : Instr} {p : DeadlineParams} {r : DeadlineRun} {type : Violation}

/-- The output lines with the ALERT line of a deadline driven, where it names one (R133). -/
def DeadlineParams.alerted (p : DeadlineParams) (active : Bool) (outs : Bank Output 8) : Bank Output 8 :=
  match p.alert with
  | some l => outs.modify l fun o => o.drive active
  | none => outs

theorem driveOpt_midway (active : Bool) :
    ((midway x k b outs reports).on fun s => s.driveOpt p.alert active) = midway x k b (p.alerted active outs) reports := by
  unfold DeadlineParams.alerted State.driveOpt
  cases p.alert <;> rfl

theorem deadlineAccept_midway :
    deadlineAccept k p (midway x k b outs reports) =
      midway x k
        { b with
          engine := .deadline p { elapsed := 0, expiryDue := false, alert := false }, tickPhase := 0, clockDue := false }
        (p.alerted false outs) reports := by
  rw [← driveOpt_midway]
  have hmap : (midway x k b outs reports).st.mapTask k (fun t =>
      { t with
        engine := .deadline p { elapsed := 0, expiryDue := false, alert := false }, tickPhase := 0, clockDue := false }) =
      (midway x k
        { b with
          engine := .deadline p { elapsed := 0, expiryDue := false, alert := false }, tickPhase := 0, clockDue := false }
        outs reports).st := by
    rw [State.mapTask_of_some _ _ midway_task?]
    simp [midway, State.setTask, State.withOutputs]
  exact congrArg (fun st => ({ st := st.driveOpt p.alert false, own := reports.map (offerOf k b), free := [] } : Work)) hmap

theorem deadlineViolation_midway :
    deadlineViolation k now p r type (midway x k b outs reports) =
      (midway x k { b with engine := .deadline p { r with alert := true, expiryDue := false } } (p.alerted true outs)
        (reports ++ [.deadlineViolation type r.elapsed])).complete k now false := by
  rw [deadlineViolation, offer_midway, setEngine_midway, driveOpt_midway]

/-- The deadline's run state after the clock edge of an update, where there is one (R128). -/
def DeadlineRun.clocked (p : DeadlineParams) (r : DeadlineRun) (clock : Bool) : DeadlineRun := if clock then r.tick p else r

theorem deadlineEdges_accepted {clock : Bool} (hkick : v.edge p.kick .active = true)
    (hmin : p.minimum ≤ (r.clocked p clock).elapsed) :
    deadlineEdges k v p r clock (midway x k b outs reports) =
      midway x k
        { b with
          engine := .deadline p { elapsed := 0, expiryDue := false, alert := false }, tickPhase := 0, clockDue := false }
        (p.alerted false outs) reports := by
  rw [deadlineEdges]
  rw [if_pos hkick, setEngine_midway]
  exact (if_neg (not_lt.2 hmin)).trans deadlineAccept_midway

theorem deadlineEdges_early {clock : Bool} (hkick : v.edge p.kick .active = true)
    (hmin : (r.clocked p clock).elapsed < p.minimum) :
    deadlineEdges k v p r clock (midway x k b outs reports) =
      deadlineViolation k v.time p (r.clocked p clock) .early
        (midway x k { b with engine := .deadline p (r.clocked p clock) } outs reports) := by
  rw [deadlineEdges]
  rw [if_pos hkick, setEngine_midway]
  exact if_pos hmin

theorem deadlineEdges_late {clock : Bool} (hkick : v.edge p.kick .active = false) (hclock : clock = true)
    (hdue : (r.clocked p clock).expiryDue = true) :
    deadlineEdges k v p r clock (midway x k b outs reports) =
      deadlineViolation k v.time p (r.clocked p clock) .late
        (midway x k { b with engine := .deadline p (r.clocked p clock) } outs reports) := by
  rw [deadlineEdges]
  rw [if_neg (by simp [hkick]), setEngine_midway]
  exact if_pos (Bool.and_eq_true_iff.2 ⟨hclock, hdue⟩)

theorem deadlineEdges_counts {clock : Bool} (hkick : v.edge p.kick .active = false)
    (hdue : ¬(clock = true ∧ (r.clocked p clock).expiryDue = true)) :
    deadlineEdges k v p r clock (midway x k b outs reports) =
      midway x k { b with engine := .deadline p (r.clocked p clock) } outs reports := by
  rw [deadlineEdges]
  rw [if_neg (by simp [hkick]), setEngine_midway]
  exact if_neg fun h => hdue (Bool.and_eq_true_iff.1 h)

theorem tick_due (h : r.expiryDue = true) : r.tick p = r := by
  rw [DeadlineRun.tick]
  exact if_pos h

theorem tick_counts (h : r.expiryDue = false) :
    r.tick p = { r with elapsed := r.elapsed + 1, expiryDue := decide (p.maximum ≤ r.elapsed + 1) } := by
  rw [DeadlineRun.tick]
  exact if_neg (by simp [h])

/-- The completion of a violation, with its alert (R131, R133). -/
theorem Takes.violation_completes (h : Takes s x k a b left) (ho : s.OwnershipSound) {r₀ : DeadlineRun}
    (he : a.engine = .deadline p r₀) {n : Nat} (hn : r.elapsed = n)
    (hexec : exec c s = .next (((deadlineViolation k now p r type
      (midway x k { b with engine := .deadline p r } s.lines.outputs [])).finish now).takeTurns turns)) :
    ∃ t e, exec c s = .next (t.takeTurns turns) ∧
      Completed s t k a now [.deadlineViolation type n] (BitVec.ofNat 32 n) e ∧
      (a.goesOn → e = .deadline p { elapsed := 0, expiryDue := false, alert := true }) ∧
      (¬a.goesOn → e = .deadline p { elapsed := n, expiryDue := false, alert := true }) ∧
      ∀ l, p.alert = some l → (t.lines.outputs.get l).level = otherLevel (s.lines.outputs.get l).idle := by
  subst hn
  rw [deadlineViolation_midway] at hexec
  have hparams : (Engine.deadline p { r with alert := true, expiryDue := false }).params = a.engine.params := by
    rw [he]
    rfl
  have hgets : ∀ l, (∀ r, (s.lines.outputs.get l).owner ≠ .task k r) →
      (p.alerted true s.lines.outputs).get l = s.lines.outputs.get l := by
    intro l hl
    obtain ⟨a₀, ha₀, -, hfixed₀⟩ := h.record
    unfold DeadlineParams.alerted
    cases halert : p.alert with
    | none => rfl
    | some m =>
      refine Bank.get_modify_ne _ _ fun hsame => hl .alert ((ho.owners _ _ _).2 ⟨a₀, ha₀, ?_⟩)
      have hkind : KindParams.deadline p = a₀.engine.params := hparams.trans (congrArg Prod.snd hfixed₀)
      rw [hsame, ← hkind]
      exact alert_mem halert
  refine ⟨_, _, hexec, h.completes ho hparams hgets, fun hgoes => ?_, fun hends => ?_, fun l hl => ?_⟩
  · exact completed_engine_goesOn (h.goesOn.2 hgoes)
  · exact completed_engine_ends fun hgoes => hends (h.goesOn.1 hgoes)
  · have hmem : (l, OutRole.alert) ∈ outputsOf a.common a.engine.params := by
      rw [he]
      exact alert_mem hl
    have hout := h.completes_outputs (e := .deadline p { r with alert := true, expiryDue := false })
      (outs := p.alerted true s.lines.outputs) (reports := [] ++ [.deadlineViolation type r.elapsed]) (now := now)
      (carry := false) ho hparams hmem fun q hq => by
        rw [he] at hq
        cases hq
    refine (congrArg Output.level hout).trans ?_
    unfold DeadlineParams.alerted
    rw [hl]
    exact congrArg Output.level (Bank.get_modify_self ..)

/-- Settles O51: the working edges are `deadlineEdges` at the record read, by the kick and the window's clock. -/
theorem kickIsAcceptedEarlyOrLate : Obligations.KickIsAcceptedEarlyOrLate := by
  intro s k v a turns p r clock kick n h he hlt hbelow hdue hclock hkick hn
  have hedges : workingEdges k v (midway (s.dropUpdate k) k a s.lines.outputs []) =
      deadlineEdges k v p r clock (midway (s.dropUpdate k) k a s.lines.outputs []) := by
    rw [workingEdges_midway h.works, he, hclock]
  have hcounted : r.clocked p clock = { r with elapsed := n, expiryDue := decide (n = p.maximum) } := by
    obtain ⟨elapsed, expiryDue, alert⟩ := r
    cases clock with
    | false =>
      obtain rfl : n = elapsed := hn
      cases expiryDue with
      | false => simp [DeadlineRun.clocked, (hbelow rfl).ne]
      | true =>
        have hmax : n = p.maximum := (hdue rfl).1
        simp [DeadlineRun.clocked, hmax]
    | true =>
      obtain rfl : n = elapsed + 1 := hn
      cases expiryDue with
      | true => exact absurd (hdue rfl).2 (by simp)
      | false =>
        have hle := hbelow rfl
        rw [DeadlineRun.clocked, if_pos rfl, tick_counts rfl]
        have hiff : p.maximum ≤ elapsed + 1 ↔ elapsed + 1 = p.maximum := by
          simp only at hle
          omega
        simp only [hiff]
  refine ⟨fun hk hmin => ?_, fun hk hn' => ?_, fun hk hd => ?_, fun type htype ho => ?_⟩
  · rw [h.exec hedges, deadlineEdges_accepted (hkick ▸ hk) (by rw [hcounted]; exact hmin), finish_midway_nil]
    unfold DeadlineParams.alerted
    cases p.alert <;> rfl
  · rw [h.exec hedges, deadlineEdges_counts (hkick ▸ hk) (by rw [hcounted]; simp [hn'.ne]), hcounted, h.takes.finish_left]
    have hnotdue : r.expiryDue = false := by
      cases hd : r.expiryDue with
      | false => rfl
      | true =>
        obtain ⟨hmax, rfl⟩ := hdue hd
        simp at hn
        omega
    rw [decide_eq_false hn'.ne, ← hnotdue]
  · obtain ⟨hmax, rfl⟩ := hdue hd
    rw [h.exec hedges, deadlineEdges_counts (hkick ▸ hk) (by simp), h.takes.finish_left]
    have hsame : r.clocked p false = r := rfl
    rw [hsame, ← he]
  · rcases htype with ⟨hk, hmin, rfl⟩ | ⟨hk, hd, hmax, rfl⟩
    · refine h.takes.violation_completes (r := r.clocked p clock) ho he (by rw [hcounted]) ?_
      rw [h.exec hedges, deadlineEdges_early (hkick ▸ hk) (by rw [hcounted]; exact hmin)]
    · have hclocked : clock = true := by
        cases clock with
        | true => rfl
        | false =>
          have := hbelow hd
          simp at hn
          omega
      refine h.takes.violation_completes (r := r.clocked p clock) ho he (by rw [hcounted]) ?_
      rw [h.exec hedges, deadlineEdges_late (hkick ▸ hk) hclocked (by rw [hcounted]; simp [hmax])]

theorem of_eq_midway (h : s.task? k = some a) : Work.of s = midway s k a s.lines.outputs [] := by
  have hslots : s.tasks.slots.set k (some a) = s.tasks.slots := h ▸ Bank.set_get ..
  exact congrArg (fun slots => Work.of { s with tasks := { s.tasks with slots := slots } }) hslots.symm

/-- Settles O52: a task clock is `DeadlineRun.tick`, and the expiry taken is `deadlineViolation` with LATE. -/
theorem expiryFallsAtTheMaximumAndIsLate : Obligations.ExpiryFallsAtTheMaximumAndIsLate := by
  refine ⟨fun s k a turns p r h he => ?_, fun s k a turns p r hreset ha hdecided hs he hdue ho => ?_⟩
  · have hclock : engineClock k s.timebase.time a (midway s k { a with clockDue := false } s.lines.outputs []) =
        midway s k { a with clockDue := false, engine := .deadline p (r.tick p) } s.lines.outputs [] := by
      rw [engineClock, he]
      exact setEngine_midway _
    have hleft := h.takes.finish_left (now := s.timebase.time) (.deadline p (r.tick p))
    refine ⟨fun hdue => ?_, fun hdue hlt => ?_⟩
    · rw [h.exec, hclock, hleft, tick_due hdue, ← he]
    · have hiff : p.maximum ≤ r.elapsed + 1 ↔ r.elapsed + 1 = p.maximum := by omega
      rw [h.exec, hclock, hleft, tick_counts hdue]
      simp only [hiff]
  · have hfallen : s.expiryFallen k = true := by
      rw [State.expiryFallen, ha]
      exact Bool.and_eq_true_iff.2 ⟨inRun_iff.2 hs, by rw [he]; exact hdue⟩
    have htakes := Takes.of_record ha hs
    have hexec : exec (.deadlineExpiry k turns) s = .next (((deadlineViolation k s.timebase.time p r .late
        (midway s k { a with engine := .deadline p r } s.lines.outputs [])).finish s.timebase.time).takeTurns turns) := by
      rw [exec_deadlineExpiry_of_decided hreset hdecided, if_pos hfallen, takeExpiry, ha]
      dsimp only
      rw [he, of_eq_midway ha, ← midway_engine he]
    obtain ⟨t, e, hexec, hcompleted, hgoes, hends, hlevel⟩ := htakes.violation_completes ho he rfl hexec
    exact ⟨t, e, hexec, hcompleted, hgoes, hends, hlevel⟩

end Sys2Proof.Machine
end

section
/-! The POSITION: one update, whole (R110 to R120). -/

namespace Sys2Proof.Machine

variable {s t x : State} {w : Work} {k : Slot} {a b : Task} {now : Time} {outs : Bank Output 8} {reports : List Report}
  {v : View} {turns : Turns} {p : PositionParams} {r : PositionRun} {l : InLine}

/-! ### Mark events -/

/-- A second mark event of one instant leaves the pulse of the first (R120). -/
theorem marked_marked : b.marked now (b.marked now outs) = b.marked now outs := by
  unfold Task.marked
  cases b.common.mark with
  | none => rfl
  | some m =>
    dsimp only
    unfold Bank.modify
    rw [Bank.get_set_self, Bank.set_set]
    rfl

/-- The output lines after the mark events that these reports make (R43, R120). -/
def Task.markedFor (b : Task) (now : Time) (reports : List Report) (outs : Bank Output 8) : Bank Output 8 :=
  if reports.any Report.marks then b.marked now outs else outs

theorem markedFor_append (first second : List Report) :
    b.markedFor now second (b.markedFor now first outs) = b.markedFor now (first ++ second) outs := by
  unfold Task.markedFor
  rw [List.any_append]
  cases first.any Report.marks <;> cases second.any Report.marks
  · rfl
  · rfl
  · rfl
  · exact marked_marked

/-! ### The phase changes (R113 to R117) -/

theorem levelBefore_same (h : v.changeOf l = none) (y : Cond) : v.levelBefore l y = y := if_pos h

theorem levelBefore_other {c : Cond} (h : v.changeOf l = some c) (y : Cond) : v.levelBefore l y = y.other :=
  if_neg (by simp [h])

theorem level_midway : v.level (midway x k b outs reports).st = v.level x := rfl

theorem positionStep_midway (d : Direction) :
    positionStep k now p r d (midway x k b outs []) =
      midway x k { b with engine := .position p { r with position := d.step r.position } }
        (b.markedFor now (if p.compare = some (d.step r.position) then [.positionCompare (d.step r.position) d] else [])
          outs)
        (if p.compare = some (d.step r.position) then [.positionCompare (d.step r.position) d] else []) := by
  rw [positionStep]
  split
  · rw [setEngine_midway, offer_midway, markEvent_midway]
    rfl
  · rw [setEngine_midway]
    rfl

theorem positionError_midway :
    positionError k p r (midway x k b outs []) =
      midway x k { b with engine := .position p { r with phaseErrors := min 65535 (r.phaseErrors + 1) } } outs
        [.phaseError r.position (min 65535 (r.phaseErrors + 1))] := by
  rw [positionError, setEngine_midway, offer_midway, sat16_eq]
  rfl

theorem other_ne (y : Cond) : y.other ≠ y := by cases y <;> decide

/-- The direction of a single phase change, in the cycle of R114. -/
theorem phaseDirection_a (a b : Cond) (invert : Bool) :
    phaseDirection true a b invert =
      if (decide (quarter a b = quarter a.other b + 1) != invert) = true then .up else .down := by
  cases a <;> cases b <;> cases invert <;> rfl

theorem phaseDirection_b (a b : Cond) (invert : Bool) :
    phaseDirection false a b invert =
      if (decide (quarter a b = quarter a b.other + 1) != invert) = true then .up else .down := by
  cases a <;> cases b <;> cases invert <;> rfl

/-- The run state and the report of a step, where the resolution counts it (R115, R117). -/
theorem step_eq (up : Bool) :
    (({ r with position := if up then r.position + 1 else r.position - 1 },
      if p.compare = some (if up then r.position + 1 else r.position - 1) then
        [.positionCompare (if up then r.position + 1 else r.position - 1) (if up then .up else .down)] else []) :
        PositionRun × List Report) =
      ({ r with position := Direction.step (if up = true then .up else .down) r.position },
        if p.compare = some (Direction.step (if up = true then .up else .down) r.position) then
          [.positionCompare (Direction.step (if up = true then .up else .down) r.position)
            (if up = true then .up else .down)] else []) := by
  cases up <;> rfl

theorem afterPhases_error (a b : Cond) :
    r.afterPhases p a.other b.other a b =
      ({ r with phaseErrors := min 65535 (r.phaseErrors + 1) },
        [.phaseError r.position (min 65535 (r.phaseErrors + 1))]) := by
  rw [PositionRun.afterPhases, if_pos ⟨other_ne a, other_ne b⟩]

theorem afterPhases_none (a b : Cond) : r.afterPhases p a b a b = (r, []) := by
  rw [PositionRun.afterPhases, if_neg (by simp), if_pos (.inl ⟨rfl, rfl⟩)]

/-- The run state and the report after a step in the direction `d`. -/
def PositionRun.stepped (p : PositionParams) (r : PositionRun) (d : Direction) : PositionRun × List Report :=
  ({ r with position := d.step r.position },
    if p.compare = some (d.step r.position) then [.positionCompare (d.step r.position) d] else [])

theorem afterPhases_a (a b : Cond) :
    r.afterPhases p a.other b a b =
      if p.resolution.counts true a then r.stepped p (phaseDirection true a b p.invert) else (r, []) := by
  rw [PositionRun.afterPhases, if_neg (by simp), phaseDirection_a]
  have hcounts : ((a.other = a ∧ b = b) ∨ (p.resolution = .x2 ∧ a.other = a) ∨
      (p.resolution = .x1 ∧ ¬(a.other = .inactive ∧ a = .active))) ↔ ¬p.resolution.counts true a = true := by
    cases p.resolution <;> cases a <;> simp [Cond.other, Resolution.counts]
  by_cases h : p.resolution.counts true a = true
  · rw [if_neg fun hc => hcounts.1 hc h, if_pos h]
    exact step_eq _
  · rw [if_pos (hcounts.2 h), if_neg h]

theorem afterPhases_b (a b : Cond) :
    r.afterPhases p a b.other a b =
      if p.resolution.counts false a then r.stepped p (phaseDirection false a b p.invert) else (r, []) := by
  rw [PositionRun.afterPhases, if_neg (by simp), phaseDirection_b]
  have hcounts : ((a = a ∧ b.other = b) ∨ (p.resolution = .x2 ∧ a = a) ∨
      (p.resolution = .x1 ∧ ¬(a = .inactive ∧ a = .active))) ↔ ¬p.resolution.counts false a = true := by
    cases p.resolution <;> cases a <;> simp [other_ne, Resolution.counts]
  by_cases h : p.resolution.counts false a = true
  · rw [if_neg fun hc => hcounts.1 hc h, if_pos h]
    exact step_eq _
  · rw [if_pos (hcounts.2 h), if_neg h]

/-- The phase changes of an update at a POSITION engine, as the table of R114 has them. -/
theorem positionPhases_midway (he : b.engine = .position p r) {y : PositionRun × List Report}
    (hy : r.afterPhases p (v.levelBefore p.phaseA (v.level x p.phaseA)) (v.levelBefore p.phaseB (v.level x p.phaseB))
      (v.level x p.phaseA) (v.level x p.phaseB) = y) :
    positionPhases k v p r (midway x k b outs []) =
      midway x k { b with engine := .position p y.1 } (b.markedFor v.time y.2 outs) y.2 := by
  subst hy
  rw [positionPhases, level_midway]
  cases ha : v.changeOf p.phaseA <;> cases hb : v.changeOf p.phaseB
  · rw [levelBefore_same ha, levelBefore_same hb, afterPhases_none]
    exact midway_engine he
  · rw [levelBefore_same ha, levelBefore_other hb, afterPhases_b]
    dsimp only [Option.isSome]
    split
    · exact positionStep_midway _
    · exact midway_engine he
  · rw [levelBefore_other ha, levelBefore_same hb, afterPhases_a]
    dsimp only [Option.isSome]
    split
    · exact positionStep_midway _
    · exact midway_engine he
  · rw [levelBefore_other ha, levelBefore_other hb, afterPhases_error]
    exact positionError_midway

/-! ### The index (R118, R119) -/

theorem indexCondition_eq (p : PositionParams) (level : InLine → Cond) :
    p.indexCondition level =
      decide (p.index ≠ none ∧ (p.index.elim .inactive level) = .active ∧
        (p.indexPhase = none ∨ p.indexPhase = some (level p.phaseA, level p.phaseB))) := by
  unfold PositionParams.indexCondition
  cases p.index with
  | none => simp
  | some i =>
    cases p.indexPhase with
    | none => simp [beq_eq_decide]
    | some y =>
      obtain ⟨c, d⟩ := y
      rw [Bool.eq_iff_iff]
      simp
      exact fun _ => and_congr eq_comm eq_comm

theorem indexed_eq (p : PositionParams) (r : PositionRun) :
    p.indexed r =
      if p.action = .load ∨ (p.action = .loadFirst ∧ r.indexSeen = false) then p.preset else r.position := by
  unfold PositionParams.indexed
  cases p.action with
  | loadFirst => cases r.indexSeen <;> simp
  | _ => simp

/-- The index condition of an update at a POSITION engine, and its event. -/
theorem positionIndexCheck_midway {y : PositionRun × List Report} (he : b.engine = .position p r)
    (hy : r.afterIndex p (p.index.elim .inactive (v.level x)) (v.level x p.phaseA) (v.level x p.phaseB) = y) :
    positionIndexCheck k v (midway x k b outs reports) =
      midway x k { b with engine := .position p y.1 } (b.markedFor v.time y.2 outs) (reports ++ y.2) := by
  subst hy
  rw [positionIndexCheck, midway_task?]
  dsimp only
  rw [he]
  dsimp only
  rw [level_midway, indexCondition_eq, PositionRun.afterIndex]
  dsimp only
  rw [← indexed_eq]
  split
  next h =>
    rw [Bool.and_eq_true, Bool.not_eq_true'] at h
    rw [if_pos h, positionIndex]
    dsimp only
    rw [setEngine_midway]
    split
    · rw [List.append_nil]
      rfl
    · rw [offer_midway, markEvent_midway]
      rfl
  next h =>
    rw [Bool.and_eq_true, Bool.not_eq_true'] at h
    rw [if_neg h, setEngine_midway, List.append_nil]
    rfl

/-- Settles O50: an update is its phase changes and then its index condition, with one mark for the events of both. -/
theorem positionTakesAnUpdateWhole : Obligations.PositionTakesAnUpdateWhole := by
  refine ⟨fun s k v a turns p r r1 r2 first second a' b' i h hs he ha' hb' hi hfirst hsecond => ?_,
    fun s k a turns p r h he => ?_⟩
  · subst ha' hb' hi
    have hedges : workingEdges k v (midway (s.dropUpdate k) k a s.lines.outputs []) =
        midway (s.dropUpdate k) k { a with engine := .position p r2 }
          (a.markedFor v.time (first ++ second) s.lines.outputs) (first ++ second) := by
      rw [workingEdges_midway h.works, he]
      dsimp only
      rw [if_pos hs, positionEdges, positionPhases_midway (x := s.dropUpdate k) he (y := (r1, first)) hfirst,
        positionIndexCheck_midway (x := s.dropUpdate k) (y := (r2, second)) rfl hsecond]
      exact congrArg (fun o => midway (s.dropUpdate k) k { a with engine := .position p r2 } o (first ++ second))
        (markedFor_append first second)
    rw [h.exec (step := fun _ => midway (s.dropUpdate k) k { a with engine := .position p r2 }
      (a.markedFor v.time (first ++ second) s.lines.outputs) (first ++ second)) hedges, finish_midway]
    have houts : a.markedFor v.time (first ++ second) s.lines.outputs =
        (match a.common.mark, (first ++ second).any Report.marks with
         | some m, true =>
           s.lines.outputs.set m.line
             { s.lines.outputs.get m.line with
               level := otherLevel (s.lines.outputs.get m.line).idle
               markEnd := some (v.time + BitVec.ofNat 48 m.ticks) }
         | _, _ => s.lines.outputs) := by
      unfold Task.markedFor Task.marked
      cases a.common.mark <;> cases (first ++ second).any Report.marks <;> rfl
    rw [houts]
    rfl
  · have hclock : engineClock k s.timebase.time a (midway s k { a with clockDue := false } s.lines.outputs []) =
        midway s k { a with clockDue := false } s.lines.outputs [] := by
      rw [engineClock, he]
    rw [h.exec, hclock, h.takes.finish_left_self]

end Sys2Proof.Machine
end

section
/-! What the engines make of an event, in one normal form: the slot's record, the output lines and the reports, and either the
run goes on or it comes to its completion (R14, R57, R131). -/

namespace Sys2Proof.Machine

variable {s t x : State} {w : Work} {k : Slot} {a b : Task} {now : Time} {outs : Bank Output 8} {reports : List Report}
  {v : View} {segments : Prog → List Segment}

/-- What an event leaves of the record `b` and the output lines `outs` of a slot whose run goes on. -/
inductive GoesOn (segments : Prog → List Segment) (now : Time) (b : Task) (outs : Bank Output 8) :
    Task → Bank Output 8 → Prop
  | left : GoesOn segments now b outs b outs
  | segment {p : TrainParams} {r : TrainRun} : b.engine = .pulseTrain p r → r.remaining - 1 ≠ 0 →
    GoesOn segments now b outs { b with engine := .pulseTrain p { r with remaining := r.remaining - 1 } } outs
  | begun {p : TrainParams} {r : TrainRun} {index loops : Nat} : b.engine = .pulseTrain p r →
    (index = 0 ∨ index < (segments p.program).length) → (loops = r.loopsDone ∨ loops = sat16 r.loopsDone) →
    GoesOn segments now b outs
      { b with engine := .pulseTrain p (.atSegment (segments p.program) index loops) } (p.driven segments index outs)
  | count {p : CountParams} {n : Nat} : b.engine = .eventCount p n → n + 1 < p.limit →
    GoesOn segments now b outs { b with engine := .eventCount p (n + 1) } outs
  | span {p : SpanParams} {r r' : SpanRun} : b.engine = .span p r →
    r'.count < 4294967295 → r'.phase = .counting →
    GoesOn segments now b outs { b with engine := .span p r' } outs
  | window {p : WindowParams} {r r' : WindowRun} : b.engine = .windowCount p r →
    (r'.count = r.count ∨ r'.count < 4294967295) → (r'.length = r.length ∨ r'.length < 4294967295) →
    r'.phase = .counting →
    (∀ d, p.source = .duration d → r.phase = .counting ∧ (r'.length = r.length ∨ r'.length < d)) →
    GoesOn segments now b outs { b with engine := .windowCount p r' } outs
  | position {p : PositionParams} {r r' : PositionRun} {reports : List Report} : b.engine = .position p r →
    (r'.phaseErrors = r.phaseErrors ∨ r'.phaseErrors ≤ 65535) →
    GoesOn segments now b outs { b with engine := .position p r' } (b.markedFor now reports outs)
  | deadline {p : DeadlineParams} {r : DeadlineRun} : b.engine = .deadline p r →
    GoesOn segments now b outs { b with engine := .deadline p (r.tick p) } outs
  | accepted {p : DeadlineParams} {r : DeadlineRun} : b.engine = .deadline p r →
    GoesOn segments now b outs
      { b with
        engine := .deadline p { elapsed := 0, expiryDue := false, alert := false }, tickPhase := 0, clockDue := false }
      (p.alerted false outs)

/-- What an event leaves of the record `b` and the output lines `outs` of a slot whose run comes to its completion. -/
inductive Ends (now : Time) (b : Task) (outs : Bank Output 8) : Task → Bank Output 8 → Prop
  | train {p : TrainParams} {r : TrainRun} : b.engine = .pulseTrain p r →
    Ends now b outs
      { b with engine := .pulseTrain p { r with remaining := 0, loopsDone := sat16 r.loopsDone, waiting := false } }
      (outs.modify p.wave fun o => o.drive false)
  | count {p : CountParams} {n : Nat} : b.engine = .eventCount p n → p.limit ≤ n + 1 →
    Ends now b outs { b with engine := .eventCount p (n + 1) } (b.marked now outs)
  | span {p : SpanParams} {r r' : SpanRun} : b.engine = .span p r →
    (r'.count = r.count ∨ r'.count ≤ 4294967295) →
    Ends now b outs { b with engine := .span p r' } (b.marked now outs)
  | window {p : WindowParams} {r r' : WindowRun} : b.engine = .windowCount p r →
    (r'.count = r.count ∨ r'.count = r.count + 1) → (r'.length = r.length ∨ r'.length = r.length + 1) →
    Ends now b outs { b with engine := .windowCount p r' } (b.marked now outs)
  | deadline {p : DeadlineParams} {r r' : DeadlineRun} : b.engine = .deadline p r →
    (r'.elapsed = r.elapsed ∨ r'.elapsed = (r.tick p).elapsed) → r'.expiryDue = false → r'.alert = true →
    Ends now b outs { b with engine := .deadline p r' } (p.alerted true outs)

/-- The event `w` of slot `k`, begun in `x`, leaves the record and the lines as `runs` says where its run goes on, and comes
to its completion with those that `done` says. -/
inductive Ran (x : State) (k : Slot) (now : Time) (runs done : Task → Bank Output 8 → Prop) : Work → Prop
  | goes {b : Task} {outs : Bank Output 8} {reports : List Report} : runs b outs →
    Ran x k now runs done (midway x k b outs reports)
  | ends {b : Task} {outs : Bank Output 8} {reports : List Report} {carry : Bool} : done b outs →
    Ran x k now runs done ((midway x k b outs reports).complete k now carry)

theorem Ran.mono {runs done runs' done' : Task → Bank Output 8 → Prop} (h : Ran x k now runs done w)
    (hruns : ∀ b outs, runs b outs → runs' b outs) (hdone : ∀ b outs, done b outs → done' b outs) :
    Ran x k now runs' done' w := by
  cases h with
  | goes h => exact .goes (hruns _ _ h)
  | ends h => exact .ends (hdone _ _ h)

/-- The engines' events. -/
abbrev Runs (x : State) (k : Slot) (now : Time) (b : Task) (outs : Bank Output 8) (w : Work) : Prop :=
  Ran x k now (GoesOn x.segments now b outs) (Ends now b outs) w

theorem Runs.left : Runs x k now b outs (midway x k b outs reports) := .goes .left

/-! ### Each kind -/

theorem bit_lt (c : Bool) : (if c = true then 1 else 0) < 4294967295 := by cases c <;> decide

theorem trainBegin_ran {p : TrainParams} {r : TrainRun} {index loops : Nat} (he : b.engine = .pulseTrain p r)
    (hindex : index = 0 ∨ index < (x.segments p.program).length) (hloops : loops = r.loopsDone ∨ loops = sat16 r.loopsDone) :
    Runs x k now b outs (trainBegin k p index loops (midway x k b outs reports)) := by
  rw [trainBegin_midway]
  exact .goes (.begun he hindex hloops)

theorem trainClock_ran {p : TrainParams} {r : TrainRun} {stopping : Bool} (he : b.engine = .pulseTrain p r) :
    Runs x k now b outs (trainClock k now p r stopping (midway x k b outs [])) := by
  cases hwait : r.waiting with
  | true => rw [trainClock_waiting hwait]; exact .left
  | false =>
    by_cases hr : r.remaining - 1 = 0
    · rw [trainClock_ends hwait hr, trainSegmentEnd_midway]
      split
      next hlt => exact trainBegin_ran he (.inr hlt) (.inl rfl)
      next =>
        by_cases hover : stopping = true ∨ (p.loops ≠ 0 ∧ sat16 r.loopsDone = p.loops)
        · rw [trainLoopDone_over hover]
          exact .ends (.train he)
        · rw [trainLoopDone_again hover]
          exact trainBegin_ran he (.inl rfl) (.inr rfl)
    · rw [trainClock_runs hwait hr]
      exact .goes (.segment he hr)

theorem countEdge_ran {p : CountParams} {n : Nat} (he : b.engine = .eventCount p n) :
    Runs x k now b outs (countEdge k now p n (midway x k b outs [])) := by
  rw [countEdge, setEngine_midway]
  split
  next hlimit =>
    rw [offer_midway, markEvent_midway]
    exact .ends (.count he hlimit)
  next hlimit => exact .goes (.count he (by omega))

theorem spanClose_ran {p : SpanParams} {r r' : SpanRun} {overrange : Bool} (he : b.engine = .span p r)
    (hcount : r'.count = r.count ∨ r'.count ≤ 4294967295) :
    Runs x k now b outs (spanClose k now p r' overrange (midway x k b outs [])) := by
  rw [spanClose_midway]
  exact .ends (.span he hcount)

theorem spanTick_ran {p : SpanParams} {r : SpanRun} (he : b.engine = .span p r) (hphase : r.phase = .counting) :
    Runs x k now b outs (spanTick k now p r (midway x k b outs [])).1 := by
  rw [spanTick]
  split
  next => exact spanClose_ran he (.inr (Nat.le_refl _))
  next hlt =>
    rw [setEngine_midway]
    exact .goes (.span he (not_le.1 hlt) hphase)

theorem spanClock_ran {p : SpanParams} {r : SpanRun} (he : b.engine = .span p r) :
    Runs x k now b outs (spanClock k now p r (midway x k b outs [])) := by
  cases hphase : r.phase with
  | awaiting => rw [spanClock_awaiting hphase]; exact .left
  | counting => rw [spanClock_counting hphase]; exact spanTick_ran he hphase

theorem spanEdges_unclocked {p : SpanParams} {r : SpanRun} {running : Bool} (h : r.phase = .counting) :
    spanEdges k v p r false running w = if p.closes v then spanClose k v.time p r false w else w := by
  obtain ⟨phase, count, start⟩ := r
  obtain rfl : phase = .counting := h
  rfl

theorem spanEdges_ran {p : SpanParams} {r : SpanRun} {clock running : Bool} (he : b.engine = .span p r) :
    Runs x k v.time b outs (spanEdges k v p r clock running (midway x k b outs [])) := by
  cases hphase : r.phase with
  | awaiting =>
    rw [spanEdges_awaiting hphase]
    split
    · exact .goes (.span he (bit_lt clock) rfl)
    · exact .left
  | counting =>
    by_cases hmax : clock = true ∧ 4294967295 ≤ r.count + 1
    · obtain ⟨rfl, hmax⟩ := hmax
      have hover : spanEdges k v p r true running (midway x k b outs []) =
          spanClose k v.time p { r with count := Config.maxCount } true (midway x k b outs []) := by
        have htick : spanTick k v.time p r (midway x k b outs []) =
            (spanClose k v.time p { r with count := Config.maxCount } true (midway x k b outs []), true) := by
          rw [spanTick, if_pos (show Config.maxCount ≤ r.count + 1 from hmax)]
        obtain ⟨phase, count, start⟩ := r
        obtain rfl : phase = .counting := hphase
        simp only [spanEdges, if_true, htick]
      rw [hover]
      exact spanClose_ran he (.inr (Nat.le_refl _))
    · by_cases hn : clock = true
      · subst hn
        have hlt : r.count + 1 < 4294967295 := by
          by_contra hge
          exact hmax ⟨rfl, not_lt.1 hge⟩
        rw [spanEdges_counting hphase he true (n := r.count + 1) rfl hlt]
        split
        · exact spanClose_ran he (.inr hlt.le)
        · exact .goes (.span he hlt hphase)
      · obtain rfl : clock = false := Bool.eq_false_of_not_eq_true hn
        rw [spanEdges_unclocked hphase]
        split
        · exact spanClose_ran he (.inl rfl)
        · exact .left

theorem windowTake_ran {p : WindowParams} {r : WindowRun} {signal clock closing : Bool} (he : b.engine = .windowCount p r)
    (hphase : r.phase = .counting) :
    Runs x k now b outs (windowTake k now p r signal clock closing (midway x k b outs [])) := by
  obtain ⟨n, hn⟩ : ∃ n, n = r.count + if signal then 1 else 0 := ⟨_, rfl⟩
  obtain ⟨m, hm⟩ : ∃ m, m = r.length + if clock then 1 else 0 := ⟨_, rfl⟩
  have hcount : (signal = false ∧ n = r.count) ∨ (signal = true ∧ n = r.count + 1) := by
    cases signal
    exacts [.inl ⟨rfl, hn⟩, .inr ⟨rfl, hn⟩]
  have hlength : (clock = false ∧ m = r.length) ∨ (clock = true ∧ m = r.length + 1) := by
    cases clock
    exacts [.inl ⟨rfl, hm⟩, .inr ⟨rfl, hm⟩]
  rw [windowTake_eq hn hm]
  split
  next => exact .ends (.window he (hcount.imp And.right And.right) (hlength.imp And.right And.right))
  next hopen =>
    rw [not_or, not_or] at hopen
    obtain ⟨hended, hfull, hlong⟩ := hopen
    refine .goes (.window he ?_ ?_ rfl fun d hd => ⟨hphase, ?_⟩)
    · exact hcount.imp And.right fun h => not_le.1 fun hle => hfull ⟨h.1, hle⟩
    · exact hlength.imp And.right fun h => not_le.1 fun hle => hlong ⟨h.1, hle⟩
    · refine hlength.imp And.right fun h => not_le.1 fun hle => hended ?_
      rw [WindowParams.ended, hd, h.1]
      exact decide_eq_true hle

theorem windowEvent_ran {p : WindowParams} {r : WindowRun} {opening signal clock closing : Bool}
    (he : b.engine = .windowCount p r) (hopening : ∀ d, p.source = .duration d → opening = false) :
    Runs x k now b outs (windowEvent k now p r opening signal clock closing (midway x k b outs [])) := by
  cases hphase : r.phase with
  | counting => rw [windowEvent_counting hphase]; exact windowTake_ran he hphase
  | awaiting =>
    cases opening with
    | false => rw [windowEvent_waits hphase]; exact .left
    | true =>
      rw [windowEvent_opened hphase]
      exact .goes (.window he (.inr (bit_lt signal)) (.inr (bit_lt clock)) rfl
        fun d hd => absurd (hopening d hd) (by simp))

theorem positionEdges_ran {p : PositionParams} {r : PositionRun} (he : b.engine = .position p r) :
    Runs x k v.time b outs (positionEdges k v p r (midway x k b outs [])) := by
  rw [positionEdges, positionPhases_midway he rfl, positionIndexCheck_midway rfl rfl]
  refine .goes ?_
  have hmarks := markedFor_append (b := b) (now := v.time) (outs := outs)
    (r.afterPhases p (v.levelBefore p.phaseA (v.level x p.phaseA)) (v.levelBefore p.phaseB (v.level x p.phaseB))
      (v.level x p.phaseA) (v.level x p.phaseB)).2
    ((r.afterPhases p (v.levelBefore p.phaseA (v.level x p.phaseA)) (v.levelBefore p.phaseB (v.level x p.phaseB))
      (v.level x p.phaseA) (v.level x p.phaseB)).1.afterIndex p (p.index.elim .inactive (v.level x)) (v.level x p.phaseA)
      (v.level x p.phaseB)).2
  refine (congrArg (GoesOn x.segments v.time b outs _) hmarks).mpr (.position he ?_)
  have hindex : ∀ (y : PositionRun) (i c d : Cond), (y.afterIndex p i c d).1.phaseErrors = y.phaseErrors := by
    intro y i c d
    unfold PositionRun.afterIndex
    dsimp only
    split <;> rfl
  rw [hindex]
  unfold PositionRun.afterPhases
  split
  · exact .inr (by simp)
  · split <;> exact .inl rfl

theorem deadlineViolation_ran {p : DeadlineParams} {r r' : DeadlineRun} {type : Violation} (he : b.engine = .deadline p r)
    (hr : r'.elapsed = r.elapsed ∨ r'.elapsed = (r.tick p).elapsed) :
    Runs x k now b outs
      (deadlineViolation k now p r' type (midway x k { b with engine := .deadline p r' } outs reports)) := by
  rw [deadlineViolation_midway]
  exact .ends (.deadline he hr rfl rfl)

theorem deadlineEdges_ran {p : DeadlineParams} {r : DeadlineRun} {clock : Bool} (he : b.engine = .deadline p r) :
    Runs x k v.time b outs (deadlineEdges k v p r clock (midway x k b outs [])) := by
  have hclocked : (r.clocked p clock).elapsed = r.elapsed ∨ (r.clocked p clock).elapsed = (r.tick p).elapsed := by
    cases clock
    exacts [.inl rfl, .inr rfl]
  by_cases hkick : v.edge p.kick .active = true
  · by_cases hmin : (r.clocked p clock).elapsed < p.minimum
    · rw [deadlineEdges_early hkick hmin]
      exact deadlineViolation_ran he hclocked
    · rw [deadlineEdges_accepted hkick (not_lt.1 hmin)]
      exact .goes (.accepted he)
  · have hkick := Bool.eq_false_of_not_eq_true hkick
    by_cases hdue : clock = true ∧ (r.clocked p clock).expiryDue = true
    · rw [deadlineEdges_late hkick hdue.1 hdue.2]
      exact deadlineViolation_ran he hclocked
    · rw [deadlineEdges_counts hkick hdue]
      cases clock with
      | true => exact .goes (.deadline he)
      | false => exact (congrArg (Runs x k v.time b outs) (midway_engine (e := .deadline p (r.clocked p false)) he)).mp .left

/-! ### An engine's event -/

theorem workingEdges_ran (h : b.works = true) : Runs x k v.time b outs (workingEdges k v (midway x k b outs [])) := by
  rw [workingEdges_midway h]
  cases he : b.engine with
  | pulseTrain p r =>
    dsimp only
    split
    exacts [trainClock_ran he, .left]
  | eventCount p n =>
    dsimp only
    split
    exacts [countEdge_ran he, .left]
  | span p r => exact spanEdges_ran he
  | windowCount p r =>
    dsimp only
    rw [windowEdges_eq]
    exact windowEvent_ran he fun d hd => windowEdge_duration hd _
  | position p r =>
    dsimp only
    split
    exacts [positionEdges_ran he, .left]
  | deadline p r => exact deadlineEdges_ran he

theorem workingEdges_rest (h : b.works = false) : workingEdges k v (midway x k b outs reports) = midway x k b outs reports := by
  rw [workingEdges, midway_task?]
  exact if_neg (by simp [h])

theorem engineClock_ran (he : a.engine = b.engine) :
    Runs x k now b outs (engineClock k now a (midway x k b outs [])) := by
  rw [engineClock, he]
  cases he : b.engine with
  | pulseTrain p r => exact trainClock_ran he
  | eventCount p n => exact .left
  | span p r => exact spanClock_ran he
  | windowCount p r =>
    dsimp only
    rw [windowClock_eq]
    exact windowEvent_ran he fun _ _ => rfl
  | position p r => exact .left
  | deadline p r =>
    dsimp only
    rw [setEngine_midway]
    exact .goes (.deadline he)

end Sys2Proof.Machine
end

section
/-! Updates taken once, the start and the overruns of a trigger edge, and the gate (R14 to R18). -/

namespace Sys2Proof.Machine

variable {s t x : State} {w : Work} {k j : Slot} {a b : Task} {now : Time} {outs : Bank Output 8} {reports : List Report}
  {v : View} {turns : Turns} {l : OutLine}

/-! ### Updates taken once -/

theorem updates_readyFor (s : State) (slots : List Slot) : (s.readyFor slots).tasks.updates = s.tasks.updates := by
  rcases s.readyFor_eq slots with ⟨he, -⟩ | ⟨he, -⟩
  · rw [he]
  · rw [he]
    exact (touches_settle (D := fun _ => True) fun _ _ => trivial).outside.updates

theorem updates_takeTurns (s : State) (turns : Turns) : (s.takeTurns turns).tasks.updates = s.tasks.updates :=
  (touches_takeTurns (D := fun _ => True) turns fun _ _ => trivial).outside.updates

theorem gateStep_rest (hb : w.st.task? k = some b) (h : b.inRun = false) : gateStep k v w = w := by
  rw [gateStep, Work.on, State.mapTask_of_some _ _ hb, h]
  have hslots : w.st.tasks.slots.set k (some b) = w.st.tasks.slots := hb ▸ Bank.set_get ..
  exact congrArg (fun slots => { w with st := { w.st with tasks := { w.st.tasks with slots := slots } } }) hslots

theorem inRun_eq_false (h : b.state ≠ .running) (h' : b.state ≠ .stopping) : b.inRun = false := by
  rw [← Bool.not_eq_true, inRun_iff]
  exact fun hs => hs.elim h h'

/-- At rest, and in ARMED but for the trigger edge of a task whose start is TRIGGER, an update does nothing (R14, R15). -/
theorem takeUpdate_at_rest (ha : s.task? k = some a)
    (hs : a.state = .idle ∨ a.state = .done ∨ a.state = .faulted ∨
      (a.state = .armed ∧ ¬(a.common.start = .trigger ∧ v.triggerEdge a.common = true))) :
    takeUpdate k v (s.dropUpdate k) = s.tookUpdate k a := by
  have hrest : a.inRun = false := inRun_eq_false
    (by rcases hs with hs | hs | hs | ⟨hs, -⟩ <;> simp [hs]) (by rcases hs with hs | hs | hs | ⟨hs, -⟩ <;> simp [hs])
  have hworks : a.works = false := by rw [Task.works, hrest, Bool.false_and]
  have htriggered : triggerStep k v (midway (s.dropUpdate k) k a s.lines.outputs []) =
      (midway (s.dropUpdate k) k a s.lines.outputs [], !v.triggerEdge a.common) := by
    cases hedge : v.triggerEdge a.common with
    | false => exact triggerStep_noEdge midway_task? hedge
    | true =>
      refine triggerStep_ignored midway_task? hedge ?_
      exact hs.imp id (Or.imp id (Or.imp id fun h => ⟨h.1, fun hstart => h.2 ⟨hstart, hedge⟩⟩))
  unfold takeUpdate
  dsimp only
  rw [of_dropUpdate ha, gateStep_rest midway_task? hrest, htriggered]
  dsimp only
  rw [workingEdges_rest hworks, ite_self]
  exact finish_midway_nil

theorem exec_taskClock_of_not_fallen (hr : s.inReset = none) (h : s.clockFallen k = false) :
    exec (.taskClock k turns) s = .next (s.takeTurns turns) := by
  change Host.Outcome.next (clockEvent k turns s) = _
  rw [clockEvent, hr, h]
  rfl

theorem exec_deadlineExpiry_of_not_fallen (hr : s.inReset = none) (h : s.expiryFallen k = false) :
    exec (.deadlineExpiry k turns) s = .next (s.takeTurns turns) := by
  change Host.Outcome.next (expiryEvent k turns s) = _
  rw [expiryEvent, hr, h]
  rfl

theorem clockFallen_iff : s.clockFallen k = true ↔ ∃ a, s.task? k = some a ∧ a.works = true ∧ a.clockDue = true := by
  unfold State.clockFallen
  cases s.task? k <;> simp

theorem expiryFallen_iff :
    s.expiryFallen k = true ↔ ∃ a, s.task? k = some a ∧ a.inRun = true ∧ a.engine.expiryDue = true := by
  unfold State.expiryFallen
  cases s.task? k <;> simp

/-- An event taken where an earlier one may still fault a slot it concerns is taken over the settled state. -/
theorem engineEvent_settle (event : State → State) (h : ∃ j ∈ s.concerned k, s.undecided j = true) :
    engineEvent k turns event s = (event s.settle).takeTurns turns := by
  have hany : (s.concerned k).any s.undecided = true := List.any_eq_true.2 h
  rw [engineEvent, State.readyFor, if_pos hany]

theorem updateEvent_of_some (hr : s.inReset = none) (hv : s.tasks.updates.get k = some v) :
    updateEvent k turns s = engineEvent k turns (fun s => takeUpdate k v (s.dropUpdate k)) s := by
  rw [updateEvent, hr, hv]
  rfl

theorem clockEvent_of_fallen (hr : s.inReset = none) (hf : s.clockFallen k = true) :
    clockEvent k turns s = engineEvent k turns (fun s => if s.clockFallen k then takeClock k s else s) s := by
  rw [clockEvent, hr, hf]
  rfl

theorem expiryEvent_of_fallen (hr : s.inReset = none) (hf : s.expiryFallen k = true) :
    expiryEvent k turns s = engineEvent k turns (fun s => if s.expiryFallen k then takeExpiry k s else s) s := by
  rw [expiryEvent, hr, hf]
  rfl

/-- Over a settled state each engine event is taken at once. -/
theorem engineEvent_decided (event : State → State) (h : ∀ j ∈ s.concerned k, s.undecided j = false) :
    engineEvent k turns event s = (event s).takeTurns turns := by
  rw [engineEvent, readyFor_of_decided h]

theorem clockEvent_decided (hr : s.inReset = none) (h : ∀ j ∈ s.concerned k, s.undecided j = false) :
    clockEvent k turns s = (if s.clockFallen k then takeClock k s else s).takeTurns turns := by
  cases hf : s.clockFallen k with
  | true => rw [clockEvent_of_fallen hr hf, engineEvent_decided _ h, hf]
  | false =>
    rw [clockEvent, hr, hf]
    rfl

theorem expiryEvent_decided (hr : s.inReset = none) (h : ∀ j ∈ s.concerned k, s.undecided j = false) :
    expiryEvent k turns s = (if s.expiryFallen k then takeExpiry k s else s).takeTurns turns := by
  cases hf : s.expiryFallen k with
  | true => rw [expiryEvent_of_fallen hr hf, engineEvent_decided _ h, hf]
  | false =>
    rw [expiryEvent, hr, hf]
    rfl

/-- The event of an engine that is due is taken over the settled state, whichever command it is of. -/
theorem exec_engine_settle {c : Instr} (hr : s.inReset = none) (h : ∃ j ∈ s.concerned k, s.undecided j = true)
    (hc : (c = .taskUpdate k turns ∧ s.tasks.updates.get k ≠ none) ∨
      (c = .taskClock k turns ∧ s.clockFallen k = true) ∨ (c = .deadlineExpiry k turns ∧ s.expiryFallen k = true)) :
    exec c s = exec c s.settle := by
  have houtside := (touches_settle (s := s) (D := fun _ => True) fun _ _ => trivial).outside
  have hr' : s.settle.inReset = none := houtside.blocks.inReset.trans hr
  have hdecided : ∀ j ∈ s.settle.concerned k, s.settle.undecided j = false := fun j _ => undecided_settle
  rcases hc with ⟨rfl, hv⟩ | ⟨rfl, hf⟩ | ⟨rfl, hf⟩
  · obtain ⟨v, hv⟩ := Option.ne_none_iff_exists'.1 hv
    have hv' : s.settle.tasks.updates.get k = some v := by rw [houtside.updates, hv]
    change Host.Outcome.next (updateEvent k turns s) = .next (updateEvent k turns s.settle)
    rw [updateEvent_of_some hr hv, updateEvent_of_some hr' hv', engineEvent_settle _ h, engineEvent_decided _ hdecided]
  · change Host.Outcome.next (clockEvent k turns s) = .next (clockEvent k turns s.settle)
    rw [clockEvent_of_fallen hr hf, clockEvent_decided hr' hdecided, engineEvent_settle _ h]
  · change Host.Outcome.next (expiryEvent k turns s) = .next (expiryEvent k turns s.settle)
    rw [expiryEvent_of_fallen hr hf, expiryEvent_decided hr' hdecided, engineEvent_settle _ h]

/-- Settles O41: what each command does where its moment has come, and where it has not. -/
theorem updatesAreTakenOnceAndIgnoredAtRest : Obligations.UpdatesAreTakenOnceAndIgnoredAtRest := by
  intro s k turns
  refine ⟨fun v hr hv => ⟨_, exec_taskUpdate hr hv, ?_⟩, fun v a h hs => ?_, exec_taskUpdate_of_none, fun hr hnone => ?_,
    fun hr hnone => ?_, fun hr => ⟨?_, ?_, ?_⟩, fun c hr hu hc => exec_engine_settle (turns := turns) hr hu ?_⟩
  · rw [updates_takeTurns, (takeUpdate_leaves k v _).touches.outside.updates, State.dropUpdate_updates, updates_readyFor]
  · rw [exec_taskUpdate_of_decided h.outOfReset h.update h.decided, takeUpdate_at_rest h.record hs]
  · refine exec_taskClock_of_not_fallen hr (Bool.eq_false_of_not_eq_true fun hf => ?_)
    obtain ⟨a, ha, hdue⟩ := clockFallen_iff.1 hf
    exact hnone a ha hdue
  · refine exec_deadlineExpiry_of_not_fallen hr (Bool.eq_false_of_not_eq_true fun hf => ?_)
    obtain ⟨a, ha, hdue⟩ := expiryFallen_iff.1 hf
    exact hnone a ha hdue
  · exact exec_engine_in_reset (c := .taskUpdate k) (.inl rfl) hr
  · exact exec_engine_in_reset (c := .taskClock k) (.inr (.inl rfl)) hr
  · exact exec_engine_in_reset (c := .deadlineExpiry k) (.inr (.inr rfl)) hr
  · rwa [clockFallen_iff, expiryFallen_iff]

end Sys2Proof.Machine
end

section
/-! A trigger edge that starts, releases, restarts or faults, and the gate's change (R14 to R18, R24). -/

namespace Sys2Proof.Machine

variable {s t x : State} {w : Work} {k j : Slot} {a b c : Task} {now : Time} {outs : Bank Output 8} {reports : List Report}
  {v : View} {turns : Turns} {l : OutLine} {level : InLine → Cond} {own free : List Offer} {i : InLine} {y : Cond}

/-! ### A run that begins in an update -/

/-- A run that an update begins, of a record `c` that is `a` but for its gate and its overrun count (R12, R16). -/
theorem begun_leaves (ha : s.task? k = some a) (hfixed : c.common = a.common ∧ c.engine = a.engine)
    (hcounts : c.runCount = a.runCount ∧ c.faultReason = a.faultReason) {overruns : Nat → Nat}
    (hover : c.overrunCount = overruns a.overrunCount)
    (ht : t = ((s.tookUpdate k c).beginRun k level now).offering now own free) :
    Started s t k level now overruns ∧ (∀ j, j ≠ k → t.task? j = s.task? j) ∧
      t.tasks.updates = s.tasks.updates.set k none ∧ OtherBlocksKept s t ∧ t.link = s.link ∧ t.reports = s.reports ∧
      t.events = (s.offering now own free).events ∧
      ∀ l, (∀ p r, a.engine = .pulseTrain p r → l ≠ p.wave) → t.lines.outputs.get l = s.lines.outputs.get l := by
  obtain ⟨hcommon, hengine⟩ := hfixed
  have hc : (s.tookUpdate k c).task? k = some c := State.task?_setTask_self (s.dropUpdate k) k c
  have hbegun := State.beginRun_task?_self (s.tookUpdate k c) k now hc level
  obtain ⟨hpending, hreset, hupdates, hinputs, hsampled, htime, hprograms, hreports, hevents, hlink⟩ :=
    (s.tookUpdate k c).beginRun_frame k now level
  subst ht
  refine ⟨?started, fun j hj => ?others, ?_, OtherBlocksKept.trans ⟨hpending, hreset, hinputs, hsampled, htime, hprograms⟩
    (State.offering_blocks ..), (State.offering_link ..).trans hlink, (State.offering_reports ..).trans hreports,
    State.offering_events_congr (s := s) hevents htime _ _ _, fun l hl => ?lines⟩
  case started =>
    refine ⟨a, _, ha, (State.offering_task? ..).trans hbegun, rfl, hcommon, ?_, ?_, hcounts.1, hover, hcounts.2, rfl, rfl,
      rfl, fun p r g he hg => ?_⟩
    · simp only [Task.begun, Task.gateClosed, hcommon]
      cases a.common.gate <;> simp
    · rw [← hengine]
      exact Engine.fresh_startsAs _ _ _
    · rw [State.offering_lines, State.beginRun_outputs_wave hc (hengine.trans he) hg]
      cases g.level with
      | inactive => exact iff_of_true rfl rfl
      | active => exact iff_of_false (otherLevel_ne _) (by simp)
  case others =>
    rw [State.offering_task?, State.beginRun_task?_ne _ _ _ _ hj]
    exact State.task?_setTask_ne (s.dropUpdate k) k j c hj
  case lines =>
    rw [State.offering_lines, State.beginRun_outputs_other]
    · rfl
    · intro d p hd hp
      rw [hc] at hd
      cases hd
      rw [hengine] at hp
      obtain ⟨r, hr⟩ := params_eq_train hp
      exact (hl p r hr).symm
  · rw [State.offering_updates, hupdates]
    rfl

/-- A trigger edge that starts an ARMED task (R12, R15). -/
theorem takeUpdate_started (ha : s.task? k = some a) (hedge : v.triggerEdge a.common = true) (hs : a.state = .armed)
    (hstart : a.common.start = .trigger) :
    takeUpdate k v (s.dropUpdate k) =
      ((s.tookUpdate k a).beginRun k (v.level s) v.time).offering v.time [] (startOffers k a .trigger) := by
  have hrest : a.inRun = false := inRun_eq_false (by simp [hs]) (by simp [hs])
  unfold takeUpdate
  dsimp only
  rw [of_dropUpdate ha, gateStep_rest midway_task? hrest, triggerStep_started midway_task? hedge hs hstart]
  dsimp only
  rw [Work.offerStarted_of_some _ _ (State.beginRun_task?_self _ _ _ midway_task? _)]
  exact Work.finish_eq ..

/-- Settles O42: an ARMED task's trigger edge is `State.beginRun` on its record. -/
theorem triggerEdgeStartsAnArmedTask : Obligations.TriggerEdgeStartsAnArmedTask := by
  intro s k v a turns h hedge hs hstart
  obtain ⟨hstarted, hothers, hupdates, hblocks, hlink, hreports, hevents, hlines⟩ :=
    begun_leaves (overruns := id) h.record ⟨rfl, rfl⟩ ⟨rfl, rfl⟩ rfl (takeUpdate_started h.record hedge hs hstart)
  exact ⟨_, exec_taskUpdate_of_decided h.outOfReset h.update h.decided, hstarted, hothers, hupdates, hblocks, hreports,
    hevents, hlines, hlink⟩

/-! ### A trigger edge in a run -/

theorem Task.gated_of_unchanged (h : ∀ g, a.common.gate = some g → v.changeOf g.line = none) : a.gated v = a := by
  cases hg : a.common.gate with
  | none => exact Task.gated_of_none hg
  | some g => rw [Task.gated_of_some hg, if_pos (h g hg)]

/-- A train without an edge of its clock line is left, at work or held. -/
theorem workingEdges_unclocked {p : TrainParams} {r : TrainRun} (he : b.engine = .pulseTrain p r)
    (hclock : v.clockEdge b.common = false) :
    workingEdges k v (midway x k b outs reports) = midway x k b outs reports := by
  cases hworks : b.works with
  | false => exact workingEdges_rest hworks
  | true =>
    rw [workingEdges_midway hworks, he]
    exact if_neg (by simp [hclock])

/-- The working edges keep the overrun count of their run, and hold none that the gate does not. -/
theorem workingEdges_record (c : Task) (now : Time) :
    ∃ b, ((workingEdges k v (midway x k c outs [])).finish now).task? k = some b ∧ b.overrunCount = c.overrunCount ∧
      (b.held = true → c.held = true) := by
  rw [Work.finish_eq, State.offering_task?]
  cases hworks : c.works with
  | false =>
    rw [workingEdges_rest hworks]
    exact ⟨c, midway_task?, rfl, id⟩
  | true =>
    have hran : Ran x k v.time (fun b _ => b.overrunCount = c.overrunCount ∧ b.held = c.held)
        (fun b _ => b.overrunCount = c.overrunCount ∧ b.held = c.held) (workingEdges k v (midway x k c outs [])) :=
      (workingEdges_ran hworks).mono (fun b outs h => by cases h <;> exact ⟨rfl, rfl⟩)
        fun b outs h => by cases h <;> exact ⟨rfl, rfl⟩
    generalize workingEdges k v (midway x k c outs []) = w at hran
    cases hran with
    | goes h => exact ⟨_, midway_task?, h.1, fun hheld => h.2 ▸ hheld⟩
    | @ends b _ _ carry h =>
      refine ⟨_, (complete_task? midway_task? k).trans (if_pos rfl), ?_⟩
      by_cases hgoes : b.goesOn
      · rw [Task.completed_goesOn hgoes]
        exact ⟨h.1, fun hheld => h.2 ▸ hheld⟩
      · rw [Task.completed_ends hgoes]
        exact ⟨h.1, nofun⟩

theorem State.restOutputs_get (s : State) (k : Slot) (l : OutLine) :
    (s.restOutputs k).lines.outputs.get l =
      if (s.lines.outputs.get l).ownedBy k then (s.lines.outputs.get l).rest else s.lines.outputs.get l :=
  Bank.get_map ..

/-- A fault in an update, told beside the state before it. -/
theorem faulted_leaves (s : State) (k : Slot) (c : Task) (reason : FaultReason) :
    OtherBlocksKept s ((s.tookUpdate k c).fault k c reason) ∧ ((s.tookUpdate k c).fault k c reason).events = s.events ∧
      ((s.tookUpdate k c).fault k c reason).link = s.link ∧ ((s.tookUpdate k c).fault k c reason).reports = s.reports ∧
      ((s.tookUpdate k c).fault k c reason).tasks.updates = s.tasks.updates.set k none ∧
      (∀ j, j ≠ k → ((s.tookUpdate k c).fault k c reason).task? j = s.task? j) ∧
      ∀ l, ((s.tookUpdate k c).fault k c reason).lines.outputs.get l =
        if (s.lines.outputs.get l).ownedBy k then (s.lines.outputs.get l).rest else s.lines.outputs.get l :=
  ⟨⟨rfl, rfl, rfl, rfl, rfl, rfl⟩, rfl, rfl, rfl, rfl,
    fun j hj => (State.task?_setTask_ne _ _ _ _ hj).trans (State.task?_setTask_ne (s.dropUpdate k) k j _ hj),
    fun _ => State.restOutputs_get ..⟩

section
variable (hedge : v.triggerEdge a.common = true)
include hedge

/-- A waiting WAIT segment is released (R77). -/
theorem reads_released {p : TrainParams} {r : TrainRun} (he : a.engine = .pulseTrain p r) (hwait : r.waiting = true) :
    a.reads v = some { a.gated v with engine := .pulseTrain p { r with waiting := false } } := by
  rw [Task.reads_eq, if_neg (by simp [hedge]), he]
  exact if_pos hwait

/-- An overrun that is counted alone (R15). -/
theorem reads_counted (hwaits : a.engine.waits = false) (hcount : a.state = .stopping ∨ a.common.policy = .ignore) :
    a.reads v = some { a.gated v with overrunCount := sat16 a.overrunCount } := by
  rw [Task.reads_eq, if_neg (by simp [hedge]), if_neg (by simp [hwaits]), if_pos hcount]

variable (ha : s.task? k = some a) (hs : a.state = .running) (hwaits : a.engine.waits = false)
include ha hs hwaits

/-- An overrun that restarts its run (R16). -/
theorem takeUpdate_restarted (hpolicy : a.common.policy = .restart) :
    takeUpdate k v (s.dropUpdate k) =
      ((s.tookUpdate k { a.gated v with overrunCount := sat16 a.overrunCount }).beginRun k (v.level s) v.time).offering
        v.time [offerOf k a (.taskRestarted a.engine.principal (min 65535 (a.overrunCount + 1)))] [] := by
  obtain ⟨hstate, hcommon, hengine, -, hover, -⟩ := a.gated_keeps v
  unfold takeUpdate
  dsimp only
  rw [of_dropUpdate ha, gateStep_midway (inRun_iff.2 (.inl hs)), triggerStep_restarted midway_task?
    (by rw [hcommon, hedge]) (by rw [hstate, hs]) (by rw [hengine, hwaits]) (by rw [hcommon, hpolicy])]
  dsimp only
  rw [on_setTask_midway, hover, restartRun, offer_midway]
  refine (Work.finish_eq ..).trans ?_
  rw [← sat16_eq]
  have hoffer : ([] ++ [Report.taskRestarted (a.gated v).engine.principal (sat16 a.overrunCount)]).map
      (offerOf k { a.gated v with overrunCount := sat16 a.overrunCount }) =
      [offerOf k a (.taskRestarted a.engine.principal (sat16 a.overrunCount))] := by
    rw [hengine]
    simp only [offerOf, hcommon, List.nil_append, List.map_cons, List.map_nil]
  rw [← hoffer]
  rfl

/-- An overrun that faults its task (R15, R24). -/
theorem takeUpdate_faulted (hpolicy : a.common.policy = .fault) :
    takeUpdate k v (s.dropUpdate k) =
      ((s.tookUpdate k { a.gated v with overrunCount := sat16 a.overrunCount }).fault k
        { a.gated v with overrunCount := sat16 a.overrunCount } .triggerOverrun).offering v.time
        [offerOf k a (.taskFault .triggerOverrun a.engine.principal)] [] := by
  obtain ⟨hstate, hcommon, hengine, -, hover, -⟩ := a.gated_keeps v
  unfold takeUpdate
  dsimp only
  rw [of_dropUpdate ha, gateStep_midway (inRun_iff.2 (.inl hs)), triggerStep_faulted midway_task?
    (by rw [hcommon, hedge]) (by rw [hstate, hs]) (by rw [hengine, hwaits]) (by rw [hcommon, hpolicy])]
  dsimp only
  rw [on_setTask_midway, hover, Work.fault_of_some _ _ midway_task?]
  refine (Work.finish_eq ..).trans ?_
  have hoffer : [offerOf k { a.gated v with overrunCount := sat16 a.overrunCount }
      (.taskFault .triggerOverrun (a.gated v).engine.principal)] =
      [offerOf k a (.taskFault .triggerOverrun a.engine.principal)] := by
    rw [hengine]
    simp only [offerOf, hcommon]
  rw [← hoffer]
  rfl

end

/-- An update whose record read takes no working edge leaves that record. -/
theorem exec_taskUpdate_left (h : TakesUpdate s k v a) (hs : a.state = .running ∨ a.state = .stopping)
    (hr : a.reads v = some b)
    (hedges : workingEdges k v (midway (s.dropUpdate k) k b s.lines.outputs []) =
      midway (s.dropUpdate k) k b s.lines.outputs []) :
    exec (.taskUpdate k turns) s = .next ((s.tookUpdate k b).takeTurns turns) := by
  rw [exec_taskUpdate_of_reads h hs hr, hedges]
  rfl

/-- What an update leaves of the record read, whatever its working edges are. -/
theorem exec_taskUpdate_record (h : TakesUpdate s k v a) (hs : a.state = .running ∨ a.state = .stopping)
    (hr : a.reads v = some c) :
    ∃ (t : State) (b : Task), exec (.taskUpdate k turns) s = .next (t.takeTurns turns) ∧ t.reports = s.reports ∧
      t.task? k = some b ∧ b.overrunCount = c.overrunCount ∧ (b.held = true → c.held = true) := by
  obtain ⟨b, hb, hover, hheld⟩ := workingEdges_record (x := s.dropUpdate k) (k := k) (v := v) (outs := s.lines.outputs)
    c v.time
  rw [← takeUpdate_of_reads h.record hs hr] at hb
  exact ⟨_, b, exec_taskUpdate_of_decided h.outOfReset h.update h.decided, (takeUpdate_leaves k v _).reports, hb, hover,
    hheld⟩

/-- Settles O43: a trigger edge in a run is one of `triggerStep`'s four cases. -/
theorem triggerEdgeInARunReleasesOrOverruns : Obligations.TriggerEdgeInARunReleasesOrOverruns := by
  intro s k v a turns h hedge hs
  obtain ⟨hstate, hcommon, hengine, hruns, hover, hreason, -⟩ := a.gated_keeps v
  refine ⟨fun p r he hwait => ⟨?_, fun hclock hgate => ?_⟩, fun hwaits hcount => ⟨?_, ?_, fun hheld hgate => ?_⟩,
    fun hwaits hrun hpolicy => ?_, fun hwaits hrun hpolicy => ?_⟩
  · exact ⟨_, reads_released hedge he hwait, rfl, hover⟩
  · have hreads := reads_released hedge he hwait
    rw [Task.gated_of_unchanged hgate] at hreads
    exact exec_taskUpdate_left h hs hreads (workingEdges_unclocked rfl hclock)
  · exact ⟨_, reads_counted hedge hwaits hcount, hengine, sat16_eq _⟩
  · obtain ⟨t, b, hexec, hreports, hb, hcounted, -⟩ :=
      exec_taskUpdate_record (turns := turns) h hs (reads_counted hedge hwaits hcount)
    exact ⟨t, b, hexec, hreports, hb, hcounted.trans (sat16_eq _)⟩
  · have hreads := reads_counted hedge hwaits hcount
    rw [Task.gated_of_unchanged hgate, sat16_eq] at hreads
    refine exec_taskUpdate_left h hs hreads (workingEdges_rest ?_)
    change (a.inRun && !a.held) = false
    rw [hheld, Bool.not_true, Bool.and_false]
  · obtain ⟨hstarted, hothers, hupdates, hblocks, hlink, hreports, hevents, hlines⟩ :=
      begun_leaves (c := { a.gated v with overrunCount := sat16 a.overrunCount })
        (overruns := fun n => min 65535 (n + 1)) h.record ⟨hcommon, hengine⟩ ⟨hruns, hreason⟩ (sat16_eq _)
        (takeUpdate_restarted hedge h.record hrun hwaits hpolicy)
    exact ⟨_, exec_taskUpdate_of_decided h.outOfReset h.update h.decided, hstarted, hothers, hupdates, hblocks, hlink,
      hreports, hevents, hlines⟩
  · have hfault := takeUpdate_faulted hedge h.record hrun hwaits hpolicy
    obtain ⟨hblocks, hevents, hlink, hreports, hupdates, hothers, hlines⟩ :=
      faulted_leaves s k { a.gated v with overrunCount := sat16 a.overrunCount } .triggerOverrun
    refine ⟨_,
      { a.gated v with
        overrunCount := sat16 a.overrunCount, state := .faulted, held := false, clockDue := false
        faultReason := some .triggerOverrun, engine := (a.gated v).engine.released },
      exec_taskUpdate_of_decided h.outOfReset h.update h.decided, ?record, rfl, rfl, rfl, hcommon, hruns,
      sat16_eq _, ?engine, fun j hj => ?others, ?updates, ?blocks, ?link, ?reports, ?events, fun l r hl => ?owned,
      fun l hl => ?lines⟩
    case record =>
      rw [hfault, State.offering_task?, State.task?_fault_self]
    case engine =>
      change (a.gated v).engine.released = _
      rw [hengine]
      cases a.engine <;> rfl
    case others => rw [hfault, State.offering_task?, hothers j hj]
    case updates => rw [hfault, State.offering_updates, hupdates]
    case blocks =>
      rw [hfault]
      exact hblocks.trans (State.offering_blocks ..)
    case link => rw [hfault, State.offering_link, hlink]
    case reports => rw [hfault, State.offering_reports, hreports]
    case events =>
      rw [hfault]
      exact State.offering_events_congr hevents hblocks.timebase _ _ _
    case owned =>
      rw [hfault, State.offering_lines, hlines, if_pos (ownedBy_iff.2 ⟨r, hl⟩)]
      rfl
    case lines =>
      rw [hfault, State.offering_lines, hlines, if_neg fun ho => ?_]
      obtain ⟨r, hr⟩ := ownedBy_iff.1 ho
      exact hl r hr

/-! ### A gate change -/

theorem edge_of_unchanged (h : v.changeOf i = none) : v.edge i y = false := by
  rw [View.edge, h]
  rfl

/-- An update that changes none of the lines a working engine reads leaves it. -/
theorem workingEdges_unread (hclock : v.clockEdge b.common = false)
    (hsignal : ∀ i r, (i, r) ∈ claimsOf b.common b.engine.params → r ≠ .gate → ∀ y, v.edge i y = false)
    (hposition : ∀ p r, b.engine ≠ .position p r) :
    workingEdges k v (midway x k b outs []) = midway x k b outs [] := by
  cases hworks : b.works with
  | false => exact workingEdges_rest hworks
  | true =>
    rw [workingEdges_midway hworks, hclock]
    cases he : b.engine with
    | pulseTrain p r => rfl
    | eventCount p n =>
      exact if_neg (by simp [hsignal p.signal .signal (by simp [he, Engine.params, claimsOf]) (by simp)])
    | span p r =>
      have hedge : ∀ y, v.edge p.signal y = false :=
        hsignal p.signal .signal (by simp [he, Engine.params, claimsOf]) (by simp)
      dsimp only
      cases hphase : r.phase with
      | awaiting => rw [spanEdges_awaiting hphase, if_neg (by simp [hedge])]
      | counting => rw [spanEdges_unclocked hphase, closes_eq, hedge, if_neg (by simp)]
    | windowCount p r =>
      have hedge : ∀ y, v.edge p.signal y = false :=
        hsignal p.signal .signal (by simp [he, Engine.params, claimsOf]) (by simp)
      have hwindow : ∀ y, p.windowEdge v y = false := by
        intro y
        cases hsource : p.source with
        | line w =>
          rw [windowEdge_line hsource]
          exact hsignal w .window (by simp [he, Engine.params, claimsOf, hsource]) (by simp) y
        | duration d => exact windowEdge_duration hsource y
      dsimp only
      rw [windowEdges_eq, hwindow, hwindow, hedge]
      cases hphase : r.phase with
      | awaiting => exact windowEvent_waits hphase
      | counting =>
        have hended : p.ended false false r.length = false := by
          unfold WindowParams.ended
          cases p.source <;> rfl
        rw [windowEvent_counting hphase, windowTake_eq rfl rfl, if_neg (by simp [hended])]
        refine (midway_engine (he.trans ?_)).symm
        rw [← hphase]
        rfl
    | position p r => exact absurd he (hposition p r)
    | deadline p r =>
      have hkick := hsignal p.kick .kick (by simp [he, Engine.params, claimsOf]) (by simp) .active
      dsimp only
      rw [deadlineEdges_counts hkick (by simp)]
      exact (midway_engine he).symm

/-- Settles O44: the gate's step holds or releases the record that the working edges are then taken with. -/
theorem gateChangeHoldsOrReleases : Obligations.GateChangeHoldsOrReleases := by
  intro s k v a turns h hs
  have hheld : ∀ b, a.reads v = some b → b.held = true →
      exec (.taskUpdate k turns) s = .next ((s.tookUpdate k b).takeTurns turns) := by
    intro b hr hb
    refine exec_taskUpdate_left h hs hr (workingEdges_rest ?_)
    rw [Task.works, hb, Bool.not_true, Bool.and_false]
  refine ⟨hheld, fun g c hg hc => ⟨fun hclose hedge => ?_, fun hopen => ⟨fun b hr => ?_, fun hedge => ?_⟩⟩⟩
  · refine hheld _ ?_ rfl
    rw [Task.reads_eq, if_pos hedge, Task.gated_of_some hg, if_neg (by simp [hc]), if_neg (by simp [hc, hclose])]
  · have hgated : (a.gated v).held = false := by
      rw [Task.gated_of_some hg, if_neg (by simp [hc]), if_pos (by rw [hc, hopen])]
    refine ⟨⟨a, h, hs, hr⟩, ?_⟩
    rw [Task.reads_eq] at hr
    split at hr
    · cases hr
      exact hgated
    split at hr
    · cases hr
      exact hgated
    split at hr
    · cases hr
      exact hgated
    · cases hr
  · have hreads : a.reads v = some { a with held := false } := by
      rw [Task.reads_eq, if_pos hedge, Task.gated_of_some hg, if_neg (by simp [hc]), if_pos (by rw [hc, hopen])]
    refine ⟨hreads, ?_, fun hothers hgate hposition => ?_⟩
    · obtain ⟨t, b, hexec, hreports, hb, -, hb'⟩ := exec_taskUpdate_record (turns := turns) h hs hreads
      exact ⟨t, b, hexec, hreports, hb, Bool.eq_false_of_not_eq_true fun hh => absurd (hb' hh) (by simp)⟩
    · have hread : ∀ i r, (i, r) ∈ claimsOf a.common a.engine.params → r ≠ .gate → ∀ y, v.edge i y = false := by
        intro i r hi hr y
        refine edge_of_unchanged (hothers i fun e => hr (hgate r (e ▸ hi)))
      refine exec_taskUpdate_left h hs hreads (workingEdges_unread ?_ hread hposition)
      change v.clockEdge a.common = false
      unfold View.clockEdge
      cases hclock : a.common.clock with
      | timebase d => rfl
      | line i => exact hread i .clock (by simp [claimsOf, hclock]) (by simp) .active

end Sys2Proof.Machine
end

section
/-! The soundness of task records, rule by rule: what each change of a record makes of it (R1, R2, R17, R22, R56 and the kind
chapters). -/

namespace Sys2Proof.Machine

variable {s t : State} {k : Slot} {a b : Task} {e e' : Engine} {now : Time} {carry inRun : Bool} {v : View}
  {segments segments' : Prog → List Segment} {level : InLine → Cond} {reason : FaultReason}

/-! ### The run state (R72, R88, R94, R103, R105, R112, R127, R128) -/

/-- A train's program has a first segment, of at least one task clock. -/
def Engine.Playable (segments : Prog → List Segment) (e : Engine) : Prop :=
  ∀ p, e.params = .pulseTrain p → ∃ g, (segments p.program)[0]? = some g ∧ 1 ≤ g.duration

theorem State.StoreSound.segment {g : Segment} {p : Prog} {i : Nat} (h : s.StoreSound)
    (hg : (s.segments p)[i]? = some g) : 1 ≤ g.duration := (h.durations p g (List.mem_of_getElem? hg)).1

/-- The program of a task is in use, so that it has segments. -/
theorem State.StoreSound.playable (h : s.StoreSound) (ha : s.task? k = some a) : a.engine.Playable s.segments := by
  intro p hp
  have hnames : s.names k p.program = true := names_iff.2 ⟨a, ha, by rw [hp]; rfl⟩
  obtain ⟨g, rest, hlist⟩ := List.exists_cons_of_ne_nil (h.segments_ne_nil hnames)
  have hg : (s.segments p.program)[0]? = some g := by rw [hlist]; rfl
  exact ⟨g, hg, h.segment hg⟩

theorem Engine.Playable.congr (h : e.Playable segments) (he : e'.params = e.params) : e'.Playable segments :=
  fun p hp => h p (he ▸ hp)

/-- The run state out of a run. -/
theorem Engine.Sound.ended (h : e.Sound segments inRun) : e.ended.Sound segments false := by
  cases e with
  | pulseTrain p r => exact ⟨h.1, nofun⟩
  | eventCount p n => exact ⟨h.1, h.2.1, nofun⟩
  | span p r => exact ⟨h.1, nofun⟩
  | windowCount p r => exact ⟨h.1, h.2.1, nofun, fun d hd => ⟨(h.2.2.2 d hd).1, nofun⟩⟩
  | position p r => exact h
  | deadline p r => exact ⟨h.1, h.2.1, nofun, nofun⟩

theorem Engine.Sound.released (h : e.Sound segments inRun) : e.released.Sound segments false := by
  cases e with
  | deadline p r => exact ⟨h.1, h.2.1, nofun, nofun⟩
  | _ => exact h.ended

/-- The run state of a task that was out of a run stays sound out of it. -/
theorem Engine.Sound.armed (h : e.Sound segments false) : e.armed.Sound segments false := by
  cases e with
  | position p r => exact Nat.zero_le _
  | deadline p r => exact Engine.Sound.released (e := .deadline p r) h
  | _ => exact h

/-- The initial form at a start (R72, R88, R94, R103, R112, R127). -/
theorem Engine.Sound.fresh (h : e.Sound segments inRun) (hplay : e.Playable segments) :
    (e.fresh segments level).Sound segments true := by
  cases e with
  | pulseTrain p r =>
    obtain ⟨g, hg, hone⟩ := hplay p rfl
    rw [Engine.fresh, atSegment_of_some hg]
    exact ⟨Nat.zero_le _, fun _ => ⟨g, hg, hone, Nat.le_refl _⟩⟩
  | eventCount p n => exact ⟨h.1, Nat.zero_le _, fun _ => h.1⟩
  | span p r => exact ⟨Nat.zero_le _, fun _ => by decide⟩
  | windowCount p r =>
    have hzero : p.fresh.count = 0 ∧ p.fresh.length = 0 := by
      unfold WindowParams.fresh
      split <;> exact ⟨rfl, rfl⟩
    obtain ⟨hcount, hlength⟩ := hzero
    rw [Engine.fresh]
    refine ⟨by omega, by omega, fun _ => ⟨by omega, by omega⟩, fun d hd => ⟨(h.2.2.2 d hd).1, fun _ => ⟨?_, ?_⟩⟩⟩
    · rw [WindowParams.fresh, hd]
    · rw [hlength]
      exact (h.2.2.2 d hd).1
  | position p r => exact h
  | deadline p r => exact ⟨h.1, Nat.zero_le _, nofun, fun _ _ => (Nat.zero_le _).trans_lt h.1⟩

theorem Engine.Sound.nextRun (h : e.Sound segments inRun) (hplay : e.Playable segments) :
    (e.nextRun segments level now carry).Sound segments true := by
  cases e with
  | span p r =>
    rw [Engine.nextRun]
    split
    · exact ⟨Nat.zero_le _, fun _ => (by decide : (0 : Nat) < 4294967295)⟩
    · exact h.fresh hplay
  | _ => exact h.fresh (level := level) hplay

/-- The initial form at DEFINE_TASK, of parameters that the record may have. -/
theorem sound_defined {c : Common} {kind : KindParams} (h : kind.Allowed c) :
    (kind.defined segments).Sound segments false := by
  cases kind with
  | pulseTrain p =>
    refine ⟨?_, nofun⟩
    rw [TrainRun.atSegment]
    split <;> exact Nat.zero_le _
  | eventCount p => exact ⟨h.2.1, Nat.zero_le _, nofun⟩
  | span p => exact ⟨Nat.zero_le _, nofun⟩
  | windowCount p =>
    refine ⟨Nat.zero_le _, Nat.zero_le _, nofun, fun d hd => ⟨?_, nofun⟩⟩
    have hsource := h.2
    rw [hd] at hsource
    exact hsource.1
  | position p => exact Nat.zero_le _
  | deadline p => exact ⟨h.2.2.1, Nat.zero_le _, nofun, nofun⟩

/-- A train out of a run, and every other kind, does not look at the programs. -/
theorem Engine.Sound.congr (h : e.Sound segments inRun)
    (hsegments : ∀ p, e.params = .pulseTrain p → segments' p.program = segments p.program) :
    e.Sound segments' inRun := by
  cases e with
  | pulseTrain p r => exact ⟨h.1, fun hrun => by rw [hsegments p rfl]; exact h.2 hrun⟩
  | _ => exact h

/-! ### The record -/

theorem Task.Sound.congr (h : a.Sound segments)
    (hsegments : ∀ p, a.engine.params = .pulseTrain p → segments' p.program = segments p.program) : a.Sound segments' :=
  { h with engine := h.engine.congr hsegments }

theorem inRun_of_state {st : TaskState} (h : a.state = st) (hst : st.inRun = false) : a.inRun = false := by
  rw [Task.inRun, h]
  exact hst

theorem Task.Sound.no_reason (h : a.Sound segments) (hs : a.state ≠ .faulted) : a.faultReason = none := by
  by_contra hr
  exact hs (h.reason.1 hr)

/-- The tick phase may stand at 0 (R56). -/
theorem phase_of_zero (h : a.Sound segments) (hb : b.tickPhase = 0) (hc : b.common = a.common) :
    match b.common.clock with
    | .timebase d => b.tickPhase < d
    | .line _ => b.tickPhase = 0 := by
  have hphase := h.phase
  rw [hc, hb]
  cases hcl : a.common.clock with
  | timebase d =>
    rw [hcl] at hphase
    exact (Nat.zero_le _).trans_lt hphase
  | line l => rfl

/-- A record as it begins a run: ARMED or RUNNING before (R12, R16). -/
theorem Task.Sound.begun (h : a.Sound segments) (hs : a.state ≠ .faulted) (hplay : a.engine.Playable segments) :
    (a.begun segments level now).Sound segments where
  held hheld := by
    refine ⟨rfl, fun hgate => ?_⟩
    change a.gateClosed level = true at hheld
    have hgate' : a.common.gate = none := hgate
    rw [Task.gateClosed, hgate'] at hheld
    cases hheld
  reason := iff_of_false (fun hr => hr (h.no_reason hs)) nofun
  counts := h.counts
  phase := phase_of_zero h rfl rfl
  due := nofun
  stopping := nofun
  engine := h.engine.fresh hplay

/-- A record as it leaves its run, or a state at rest, for another state at rest. -/
theorem Task.Sound.resting (h : a.Sound segments) (hs : b.state.inRun = false) (hheld : b.held = false)
    (hcommon : b.common = a.common) (hengine : b.engine.Sound segments false)
    (hreason : b.faultReason ≠ none ↔ b.state = .faulted) (hcounts : b.runCount ≤ 65535 ∧ b.overrunCount ≤ 65535)
    (hphase : b.tickPhase = a.tickPhase) (hdue : b.clockDue = false) : b.Sound segments where
  held hh := by rw [hheld] at hh; cases hh
  reason := hreason
  counts := hcounts
  phase := by rw [hphase, hcommon]; exact h.phase
  due hd := by rw [hdue] at hd; cases hd
  stopping hst := by rw [hst] at hs; cases hs
  engine := by rw [inRun_of_state rfl hs]; exact hengine

theorem Task.Sound.faulted (h : a.Sound segments) :
    ({ a with
      state := .faulted, held := false, clockDue := false, faultReason := some reason
      engine := a.engine.released } : Task).Sound segments :=
  h.resting rfl rfl rfl h.engine.released (iff_of_true nofun rfl) h.counts rfl rfl

theorem Task.Sound.done (h : a.Sound segments) (hs : a.state ≠ .faulted) : (a.left .done).Sound segments :=
  h.resting rfl rfl rfl h.engine.ended (iff_of_false (fun hr => hr (h.no_reason hs)) nofun) h.counts rfl rfl

theorem Task.Sound.armed (h : a.Sound segments) (hs : a.state.inRun = false) : a.armed.Sound segments :=
  h.resting rfl rfl rfl (Engine.Sound.armed (inRun_of_state rfl hs ▸ h.engine)) (iff_of_false (fun hr => hr rfl) nofun)
    ⟨Nat.zero_le _, Nat.zero_le _⟩ rfl rfl

theorem Task.Sound.disarmed (h : a.Sound segments) (hs : a.state ≠ .faulted) : a.disarmed.Sound segments :=
  h.resting rfl rfl rfl h.engine.released (iff_of_false (fun hr => hr (h.no_reason hs)) nofun) h.counts rfl rfl

/-- A record of a run whose run state changes. -/
theorem Task.Sound.setEngine (h : a.Sound segments) (he : e.Sound segments a.inRun)
    (hf : a.state = .stopping → e.finishes = true) : ({ a with engine := e } : Task).Sound segments :=
  { held := h.held, reason := h.reason, counts := h.counts, phase := h.phase, due := h.due, stopping := hf, engine := he }

theorem Task.Sound.stoppingRun (h : a.Sound segments) (hs : a.state = .running) (hf : a.engine.finishes = true) :
    ({ a with state := .stopping } : Task).Sound segments where
  held hh := ⟨rfl, (h.held hh).2⟩
  reason := iff_of_false (fun hr => hr (h.no_reason (by simp [hs]))) nofun
  counts := h.counts
  phase := h.phase
  due hd := by
    obtain ⟨hworks, hclock⟩ := h.due hd
    refine ⟨?_, hclock⟩
    rw [works_iff] at hworks ⊢
    exact ⟨.inr rfl, hworks.2⟩
  stopping _ := hf
  engine := by
    have hrun : a.inRun = true := inRun_iff.2 (.inl hs)
    have he := h.engine
    rw [hrun] at he
    exact he

theorem Task.Sound.ticked (h : a.Sound segments) : a.ticked.Sound segments := by
  unfold Task.ticked
  have hphase := h.phase
  split
  next d hd =>
    rw [hd] at hphase
    split
    next hworks =>
      split
      · exact { h with
          phase := by rw [hd]; exact (Nat.zero_le _).trans_lt hphase
          due := fun _ => ⟨hworks, d, hd⟩ }
      next hlt => exact { h with phase := by rw [hd]; exact not_le.1 hlt }
    next => exact h
  next => exact h

theorem Task.Sound.gated (h : a.Sound segments) (hs : a.state = .running ∨ a.state = .stopping) :
    (a.gated v).Sound segments := by
  have hrun : a.inRun = true := inRun_iff.2 hs
  cases hg : a.common.gate with
  | none => rwa [Task.gated_of_none hg]
  | some g =>
    rw [Task.gated_of_some hg]
    split
    · exact h
    split
    · exact { h with
        held := nofun
        due := fun hd => ⟨works_iff.2 ⟨hs, rfl⟩, (h.due hd).2⟩ }
    · exact { h with
        held := fun _ => ⟨hrun, fun hnone => by rw [hg] at hnone; cases hnone⟩
        phase := phase_of_zero h rfl rfl
        due := nofun }

theorem Task.Sound.overrun (h : a.Sound segments) :
    ({ a with overrunCount := sat16 a.overrunCount } : Task).Sound segments :=
  { h with counts := ⟨h.counts.1, sat16_le _⟩ }

theorem Engine.Sound.releaseWait (h : e.Sound segments inRun) : e.releaseWait.Sound segments inRun := by
  cases e <;> exact h

theorem Task.Sound.reads (h : a.Sound segments) (hs : a.state = .running ∨ a.state = .stopping) (hr : a.reads v = some b) :
    b.Sound segments := by
  obtain ⟨hstate, hcommon, hengine, -, hover, -⟩ := a.gated_keeps v
  have hgated := h.gated (v := v) hs
  rw [Task.reads_eq] at hr
  split at hr
  · cases hr
    exact hgated
  split at hr
  · cases hr
    refine hgated.setEngine ?_ fun hst => ?_
    · rw [← hengine]
      exact hgated.engine.releaseWait
    · have hfin := h.stopping (hstate.symm.trans hst)
      cases he : a.engine <;> rw [he] at hfin <;> exact hfin
  split at hr
  · cases hr
    rw [← hover]
    exact hgated.overrun
  · cases hr

theorem Task.Sound.defined {c : Common} {kind : KindParams} (h : RecordAllowed k c kind) :
    (definedTask s c kind).Sound s.segments where
  held := nofun
  reason := iff_of_false (fun hr => hr rfl) nofun
  counts := ⟨Nat.zero_le _, Nat.zero_le _⟩
  phase := by
    change match c.clock with
      | .timebase d => 0 < d
      | .line _ => (0 : Nat) = 0
    cases hc : c.clock with
    | timebase d => exact (h.divider d hc).1
    | line l => rfl
  due := nofun
  stopping := nofun
  engine := sound_defined h.parameters

/-! ### A completion -/

/-- The record of a completing run, whose run state is that of a task out of a run, once it has moved on (R20). -/
theorem Task.Sound.completed (h : a.Sound segments) (hs : a.state = .running ∨ a.state = .stopping)
    (he : e.Sound segments false) (hplay : e.Playable segments) :
    (({ a with engine := e } : Task).completed segments level now carry).Sound segments := by
  have hnot : a.state ≠ .faulted := by rcases hs with hs | hs <;> simp [hs]
  by_cases hgoes : ({ a with engine := e } : Task).goesOn
  · rw [Task.completed_goesOn hgoes]
    have hrun : a.inRun = true := inRun_iff.2 hs
    exact {
      held := h.held
      reason := h.reason
      counts := ⟨sat16_le _, h.counts.2⟩
      phase := phase_of_zero h rfl rfl
      due := nofun
      stopping := fun hst => by
        have : a.state = .running := hgoes.1
        rw [show a.state = .stopping from hst] at this
        cases this
      engine := by
        change Engine.Sound segments a.inRun _
        rw [hrun]
        exact he.nextRun hplay }
  · rw [Task.completed_ends hgoes]
    have hend : ({ a with engine := e } : Task).endState = .armed ∨ ({ a with engine := e } : Task).endState = .done := by
      unfold Task.endState
      split
      exacts [.inl rfl, .inr rfl]
    refine h.resting ?_ rfl rfl he.ended ?_ ⟨sat16_le _, h.counts.2⟩ rfl rfl
    · change (Task.endState _).inRun = false
      rcases hend with hend | hend <;> rw [hend] <;> rfl
    · refine iff_of_false (fun hr => hr (h.no_reason hnot)) ?_
      change Task.endState _ ≠ _
      rcases hend with hend | hend <;> rw [hend] <;> nofun

end Sys2Proof.Machine
end

section
/-! Every step keeps the task records sound, over a sound segment store (R1, R2, R17, R22, R56). -/

namespace Sys2Proof.Machine

variable {s t x : State} {w : Work} {k j : Slot} {a a₀ b : Task} {now : Time} {outs outs' : Bank Output 8}
  {reports : List Report} {v : View} {turns : Turns} {segments : Prog → List Segment} {c : Instr}

/-! ### What the engines make of a sound record -/

/-- A run that goes on keeps its record sound. -/
theorem GoesOn.sound (hg : GoesOn segments now a outs b outs') (h : a.Sound segments) (hworks : a.works = true)
    (hplay : a.engine.Playable segments)
    (hsegment : ∀ (p : TrainParams) (r : TrainRun) (i : Nat) (g : Segment), a.engine = .pulseTrain p r → (segments p.program)[i]? = some g → 1 ≤ g.duration) :
    b.Sound segments := by
  have hs := (works_iff.1 hworks).1
  have hrun : a.inRun = true := inRun_iff.2 hs
  have heng := h.engine
  have hstop := h.stopping
  rw [hrun] at heng
  cases hg with
  | left => exact h
  | @segment p r he hr =>
    rw [he] at heng hstop
    refine h.setEngine ?_ hstop
    rw [hrun]
    obtain ⟨g, hg, -, hmax⟩ := heng.2 rfl
    exact ⟨heng.1, fun _ => ⟨g, hg, Nat.pos_of_ne_zero hr, (Nat.sub_le _ _).trans hmax⟩⟩
  | @begun p r index loops he hindex hloops =>
    obtain ⟨g, hg, hone⟩ : ∃ g, (segments p.program)[index]? = some g ∧ 1 ≤ g.duration := by
      rcases hindex with rfl | hlt
      · exact hplay p (by rw [he]; rfl)
      · exact ⟨_, List.getElem?_eq_getElem hlt, hsegment p r index _ he (List.getElem?_eq_getElem hlt)⟩
    rw [he] at heng
    refine h.setEngine ?_ fun _ => rfl
    rw [hrun, atSegment_of_some hg]
    refine ⟨?_, fun _ => ⟨g, hg, hone, Nat.le_refl _⟩⟩
    rcases hloops with rfl | rfl
    exacts [heng.1, sat16_le _]
  | @count p n he hlt =>
    rw [he] at heng hstop
    refine h.setEngine ?_ hstop
    rw [hrun]
    exact ⟨heng.1, hlt.le, fun _ => hlt⟩
  | @span p r r' he hlt hphase =>
    refine h.setEngine ?_ fun _ => beq_iff_eq.2 hphase
    rw [hrun]
    exact ⟨hlt.le, fun _ => hlt⟩
  | @window p r r' he hcount hlength hphase hduration =>
    rw [he] at heng
    obtain ⟨-, -, hbelow, hdur⟩ := heng
    obtain ⟨hc, hl⟩ := hbelow rfl
    have hc' : r'.count < 4294967295 := hcount.elim (fun e => e ▸ hc) id
    have hl' : r'.length < 4294967295 := hlength.elim (fun e => e ▸ hl) id
    refine h.setEngine ?_ fun _ => beq_iff_eq.2 hphase
    rw [hrun]
    refine ⟨hc'.le, hl'.le, fun _ => ⟨hc', hl'⟩, fun d hd => ⟨(hdur d hd).1, fun _ => ⟨hphase, ?_⟩⟩⟩
    exact (hduration d hd).2.elim (fun e => e ▸ ((hdur d hd).2 rfl).2) id
  | @position p r r' reports he herrors =>
    rw [he] at heng hstop
    refine h.setEngine ?_ hstop
    rcases herrors with herrors | herrors
    · exact herrors.le.trans heng
    · exact herrors
  | @deadline p r he =>
    rw [he] at heng hstop
    refine h.setEngine ?_ hstop
    rw [hrun]
    obtain ⟨hlt, hmax, hdue, hbelow⟩ := heng
    cases hd : r.expiryDue with
    | true => rw [tick_due hd]; exact ⟨hlt, hmax, hdue, hbelow⟩
    | false =>
      have hless := hbelow rfl hd
      rw [tick_counts hd]
      refine ⟨hlt, hless, fun h => ⟨rfl, ?_⟩, fun _ h => ?_⟩
      · have := of_decide_eq_true h
        exact Nat.le_antisymm hless this
      · have := of_decide_eq_false h
        exact not_le.1 this
  | @accepted p r he =>
    rw [he] at heng hstop
    refine {
      held := h.held, reason := h.reason, counts := h.counts, phase := phase_of_zero h rfl rfl, due := nofun
      stopping := hstop, engine := ?_ }
    change Engine.Sound segments a.inRun _
    rw [hrun]
    exact ⟨heng.1, Nat.zero_le _, nofun, fun _ _ => (Nat.zero_le _).trans_lt heng.1⟩

/-- A run that comes to its end has the run state of a task out of a run. -/
theorem Ends.sound (hg : Ends now a outs b outs') (h : a.Sound segments) (hs : a.state = .running ∨ a.state = .stopping) :
    ∃ e, b = { a with engine := e } ∧ e.Sound segments false ∧ e.params = a.engine.params := by
  have hrun : a.inRun = true := inRun_iff.2 hs
  have heng := h.engine
  rw [hrun] at heng
  cases hg with
  | @train p r he =>
    rw [he]
    exact ⟨_, rfl, ⟨sat16_le _, nofun⟩, rfl⟩
  | @count p n he hlimit =>
    rw [he] at heng ⊢
    have hlt := heng.2.2 rfl
    exact ⟨_, rfl, ⟨heng.1, by omega, nofun⟩, rfl⟩
  | @span p r r' he hcount =>
    rw [he] at heng ⊢
    exact ⟨_, rfl, ⟨hcount.elim (fun e => e ▸ heng.1) id, nofun⟩, rfl⟩
  | @window p r r' he hcount hlength =>
    rw [he] at heng ⊢
    obtain ⟨-, -, hbelow, hdur⟩ := heng
    obtain ⟨hc, hl⟩ := hbelow rfl
    exact ⟨_, rfl, ⟨by omega, by omega, nofun, fun d hd => ⟨(hdur d hd).1, nofun⟩⟩, rfl⟩
  | @deadline p r r' he helapsed hdue halert =>
    rw [he] at heng ⊢
    obtain ⟨hlt, hmax, -, hbelow⟩ := heng
    have hmaximum : r'.elapsed ≤ p.maximum → Engine.Sound segments false (.deadline p r') := fun hle =>
      ⟨hlt, hle, fun hd => absurd (hdue.symm.trans hd) nofun, nofun⟩
    refine ⟨_, rfl, hmaximum ?_, rfl⟩
    rcases helapsed with hel | hel
    · rw [hel]
      exact hmax
    · rw [hel]
      cases hd : r.expiryDue with
      | true => rw [tick_due hd]; exact hmax
      | false => rw [tick_counts hd]; exact hbelow rfl hd

/-! ### What an update can do -/

/-- What an update does at a slot: nothing, the start of an ARMED task, the working edges of the record read, a restart, or a
fault (R14 to R16). -/
inductive UpdateTaken (k : Slot) (v : View) (s : State) (a : Task) : State → Prop
  | left : UpdateTaken k v s a (s.tookUpdate k a)
  | started : a.state = .armed →
    UpdateTaken k v s a
      (((s.tookUpdate k a).beginRun k (v.level s) v.time).offering v.time [] (startOffers k a .trigger))
  | worked {b : Task} : (a.state = .running ∨ a.state = .stopping) → a.reads v = some b →
    UpdateTaken k v s a
      ((workingEdges k v (midway (s.dropUpdate k) k b s.lines.outputs [])).finish v.time)
  | restarted {own : List Offer} : a.state = .running →
    UpdateTaken k v s a
      (((s.tookUpdate k { a.gated v with overrunCount := sat16 a.overrunCount }).beginRun k (v.level s) v.time).offering
        v.time own [])
  | faulted {own : List Offer} : a.state = .running →
    UpdateTaken k v s a
      (((s.tookUpdate k { a.gated v with overrunCount := sat16 a.overrunCount }).fault k
        { a.gated v with overrunCount := sat16 a.overrunCount } .triggerOverrun).offering v.time own [])

theorem updateTaken (k : Slot) (v : View) (ha : s.task? k = some a) :
    UpdateTaken k v s a (takeUpdate k v (s.dropUpdate k)) := by
  by_cases hrun : a.state = .running ∨ a.state = .stopping
  · cases hr : a.reads v with
    | some b =>
      rw [takeUpdate_of_reads ha hrun hr]
      exact .worked hrun hr
    | none =>
      rw [Task.reads_eq] at hr
      split at hr
      · cases hr
      next hedge =>
        have hedge : v.triggerEdge a.common = true := by simpa using hedge
        split at hr
        · cases hr
        next hwaits =>
          have hwaits : a.engine.waits = false := by simpa using hwaits
          split at hr
          · cases hr
          next hcount =>
            rw [not_or] at hcount
            have hs := hrun.resolve_right hcount.1
            cases hp : a.common.policy with
            | ignore => exact absurd hp hcount.2
            | restart =>
              rw [takeUpdate_restarted hedge ha hs hwaits hp]
              exact .restarted hs
            | fault =>
              rw [takeUpdate_faulted hedge ha hs hwaits hp]
              exact .faulted hs
  · by_cases harm : a.state = .armed ∧ a.common.start = .trigger ∧ v.triggerEdge a.common = true
    · obtain ⟨hs, hstart, hedge⟩ := harm
      rw [takeUpdate_started ha hedge hs hstart]
      exact .started hs
    · rw [takeUpdate_at_rest ha ?_]
      · exact .left
      · cases hs : a.state with
        | idle => exact .inl rfl
        | done => exact .inr (.inl rfl)
        | faulted => exact .inr (.inr (.inl rfl))
        | armed => exact .inr (.inr (.inr ⟨rfl, fun h => harm ⟨hs, h⟩⟩))
        | running => exact absurd (.inl hs) hrun
        | stopping => exact absurd (.inr hs) hrun

theorem takeUpdate_free (h : s.task? k = none) : takeUpdate k v s = s := by
  have hgate : gateStep k v (Work.of s) = Work.of s := by
    rw [gateStep, Work.on]
    exact congrArg Work.of (State.mapTask_of_none _ _ h _)
  have htrigger : triggerStep k v (Work.of s) = (Work.of s, false) := by
    rw [triggerStep]
    change (match s.task? k with
      | none => _
      | some t => _) = _
    rw [h]
  unfold takeUpdate
  dsimp only
  rw [hgate, htrigger]
  rfl

/-! ### What a task clock and an expiry can do -/

theorem takeClock_ran (ha : s.task? k = some a) :
    ∃ w, takeClock k s = w.finish s.timebase.time ∧
      Runs s k s.timebase.time { a with clockDue := false } s.lines.outputs w := by
  refine ⟨engineClock k s.timebase.time a (midway s k { a with clockDue := false } s.lines.outputs []), ?_,
    engineClock_ran rfl⟩
  unfold takeClock
  rw [ha]
  rfl

theorem takeExpiry_ends (hf : s.expiryFallen k = true) :
    ∃ a b outs reports carry, s.task? k = some a ∧ a.inRun = true ∧ Ends s.timebase.time a s.lines.outputs b outs ∧
      takeExpiry k s = ((midway s k b outs reports).complete k s.timebase.time carry).finish s.timebase.time := by
  obtain ⟨a, ha, hrun, hdue⟩ := expiryFallen_iff.1 hf
  cases he : a.engine with
  | deadline p r =>
    have htake : takeExpiry k s = (deadlineViolation k s.timebase.time p r .late
        (midway s k { a with engine := .deadline p r } s.lines.outputs [])).finish s.timebase.time := by
      rw [show ({ a with engine := .deadline p r } : Task) = a by rw [← he], ← of_eq_midway ha]
      simp only [takeExpiry, ha, he]
    rw [deadlineViolation_midway] at htake
    exact ⟨a, { a with engine := .deadline p { r with alert := true, expiryDue := false } }, _, _, _, ha, hrun,
      .deadline he (.inl rfl) rfl rfl, htake⟩
  | _ => rw [he] at hdue; cases hdue

/-! ### The records a state leaves -/

theorem State.TasksSound.of_records (hprog : t.programs = s.programs)
    (h : ∀ j b, t.task? j = some b → b.Sound s.segments) : t.TasksSound := by
  have hsegments : t.segments = s.segments := State.segments_congr hprog
  intro j b hb
  rw [hsegments]
  exact h j b hb

theorem State.TasksSound.congr (h : s.TasksSound) (hprog : t.programs = s.programs)
    (htask : ∀ j, t.task? j = s.task? j) : t.TasksSound :=
  .of_records hprog fun j b hb => h j b ((htask j).symm.trans hb)

/-- One record is another one. -/
theorem State.TasksSound.of_task (h : s.TasksSound) (hprog : t.programs = s.programs) (hb : b.Sound s.segments)
    (hk : t.task? k = some b) (hne : ∀ j, j ≠ k → t.task? j = s.task? j) : t.TasksSound :=
  .of_records hprog fun j c hc => by
    by_cases hj : j = k
    · subst hj
      exact Option.some.inj (hk.symm.trans hc) ▸ hb
    · exact h j c ((hne j hj).symm.trans hc)

theorem State.TasksSound.setTask (h : s.TasksSound) (hb : b.Sound s.segments) : (s.setTask k b).TasksSound :=
  h.of_task rfl hb (State.task?_setTask_self ..) fun _ hj => State.task?_setTask_ne _ _ _ _ hj

theorem State.TasksSound.fault {reason : FaultReason} (h : s.TasksSound) (ha : a.Sound s.segments) :
    (s.fault k a reason).TasksSound :=
  h.of_task (by rw [State.fault_eq]; rfl) ha.faulted (State.task?_fault_self ..) fun _ hj =>
    s.fault_task?_ne _ _ hj _ _

theorem State.TasksSound.offering {own free : List Offer} (h : s.TasksSound) : (s.offering now own free).TasksSound :=
  h.congr (State.offering_blocks ..).programs fun _ => State.offering_task? ..

/-- The store, and the records over it. -/
structure State.RecordsSound (s : State) : Prop where
  store : s.StoreSound
  tasks : s.TasksSound

theorem State.RecordsSound.congr (h : s.RecordsSound) (hprog : t.programs = s.programs)
    (htask : ∀ j, t.task? j = s.task? j) : t.RecordsSound :=
  ⟨h.store.congr hprog fun j => by rw [htask j], h.tasks.congr hprog htask⟩

theorem recordsSound_turns : KeptByTurns State.RecordsSound where
  offered _ _ _ _ _ h := h.congr rfl fun _ => rfl
  faulted _ _ a ha _ h :=
    ⟨(Touches.fault (D := fun _ => True) (L := fun _ => True) ha trivial fun _ _ _ => trivial).store h.store,
      h.tasks.fault (h.tasks _ a ha)⟩
  events _ _ h := h.congr rfl fun _ => rfl

theorem State.RecordsSound.beginRun {level : InLine → Cond} (h : s.RecordsSound) (ha : s.task? k = some a)
    (hs : a.state ≠ .faulted) : (s.beginRun k level now).TasksSound := by
  obtain ⟨-, -, -, -, -, -, hprog, -⟩ := s.beginRun_frame k now level
  exact h.tasks.of_task hprog ((h.tasks k a ha).begun hs (h.store.playable ha)) (s.beginRun_task?_self k now ha level)
    fun _ hj => s.beginRun_task?_ne _ _ _ hj level

/-- The records a completion leaves: its task's, the begun dependents', the others'. -/
theorem Ends.tasks_sound {carry : Bool} (hg : Ends now a outs b outs') (h : x.RecordsSound) (hx : x.task? k = some a₀)
    (hfixed : a.fixed = a₀.fixed) (ha : a.Sound x.segments) (hs : a.state = .running ∨ a.state = .stopping) :
    ((midway x k b outs' reports).complete k now carry).st.TasksSound := by
  obtain ⟨e, rfl, he, hparams⟩ := hg.sound ha hs
  have hplay : e.Playable x.segments :=
    (h.store.playable hx).congr (hparams.trans (congrArg Prod.snd hfixed))
  obtain ⟨hblocks, -⟩ := complete_frame (midway x k { a with engine := e } outs' reports) k now carry
  refine .of_records (s := x) hblocks.programs fun j c hc => ?_
  rw [complete_task? midway_task?] at hc
  split at hc
  next =>
    cases hc
    exact ha.completed hs he hplay
  next hj =>
    rw [midway_task?_ne hj] at hc
    split at hc
    next hdep =>
      obtain ⟨d, hd, rfl⟩ := Option.map_eq_some_iff.1 hc
      obtain ⟨d', hd', harmed, -⟩ := (mem_dependents _ _ _).1 hdep
      rw [midway_task?_ne hj, hd] at hd'
      cases hd'
      exact (h.tasks j d hd).begun (by simp [harmed]) (h.store.playable hd)
    next => exact h.tasks j c hc

theorem Runs.tasks_sound (hr : Runs x k now a outs w) (h : x.RecordsSound) (hx : x.task? k = some a₀)
    (hfixed : a.fixed = a₀.fixed) (ha : a.Sound x.segments) (hworks : a.works = true) : w.st.TasksSound := by
  cases hr with
  | goes hg =>
    refine h.tasks.of_task rfl (hg.sound ha hworks ((h.store.playable hx).congr (congrArg Prod.snd hfixed))
      fun p r i g _ hi => h.store.segment hi) midway_task? fun _ hj => midway_task?_ne hj
  | ends hg => exact hg.tasks_sound h hx hfixed ha (works_iff.1 hworks).1

theorem finish_tasksSound (h : w.st.TasksSound) : (w.finish now).TasksSound := by
  rw [Work.finish_eq]
  exact h.offering

end Sys2Proof.Machine
end

section
/-! Every command keeps the task records sound (R1, R2, R17, R22, R56). -/

namespace Sys2Proof.Machine

variable {s t : State} {k : Slot} {a b : Task} {now : Time} {v : View} {c : Instr} {p : Prog}

/-! ### The engines' events -/

theorem State.RecordsSound.dropUpdate (h : s.RecordsSound) : (s.dropUpdate k).RecordsSound := h.congr rfl fun _ => rfl

/-- A task counts an overrun as it takes an update (R15). -/
theorem State.RecordsSound.overrun (h : s.RecordsSound) (ha : s.task? k = some a) (hs : a.state = .running) :
    (s.tookUpdate k { a.gated v with overrunCount := sat16 a.overrunCount }).RecordsSound := by
  obtain ⟨hstate, hcommon, hengine, -, hover, -⟩ := a.gated_keeps v
  refine ⟨h.dropUpdate.store.setTask (a := a) ha (Prod.ext hcommon (congrArg Engine.params hengine)), ?_⟩
  refine h.dropUpdate.tasks.setTask ?_
  have hgated := (h.tasks k a ha).gated (v := v) (.inl hs)
  rw [← hover]
  exact hgated.overrun

theorem UpdateTaken.tasks_sound (ht : UpdateTaken k v s a t) (h : s.RecordsSound) (ha : s.task? k = some a) :
    t.TasksSound := by
  have htook : ∀ b, (s.tookUpdate k b).task? k = some b := State.task?_setTask_self (s.dropUpdate k) k
  cases ht with
  | left => exact h.dropUpdate.tasks.setTask (h.tasks k a ha)
  | started hs =>
    have hrecords : (s.tookUpdate k a).RecordsSound :=
      ⟨h.dropUpdate.store.setTask (a := a) ha rfl, h.dropUpdate.tasks.setTask (h.tasks k a ha)⟩
    exact (hrecords.beginRun (htook a) (by simp [hs])).offering
  | @worked b hs hr =>
    obtain ⟨hstate, hfixed⟩ := Task.reads_keeps hr
    have hb : b.Sound (s.dropUpdate k).segments := (h.tasks k a ha).reads hs hr
    refine finish_tasksSound ?_
    by_cases hworks : b.works = true
    · exact (workingEdges_ran hworks).tasks_sound h.dropUpdate ha hfixed hb hworks
    · rw [workingEdges_rest (by simpa using hworks)]
      exact h.dropUpdate.tasks.setTask hb
  | restarted hs =>
    have hgated := (a.gated_keeps v).1
    exact ((h.overrun ha hs).beginRun (htook _) (by simp [hgated, hs])).offering
  | faulted hs =>
    have hrecords := h.overrun (v := v) ha hs
    exact (hrecords.tasks.fault (hrecords.tasks k _ (htook _))).offering

theorem State.RecordsSound.takeUpdate (h : s.RecordsSound) : (takeUpdate k v (s.dropUpdate k)).RecordsSound := by
  refine ⟨(takeUpdate_leaves k v _).store h.dropUpdate.store, ?_⟩
  cases ha : s.task? k with
  | none =>
    rw [takeUpdate_free (s := s.dropUpdate k) ha]
    exact h.dropUpdate.tasks
  | some a => exact (updateTaken k v ha).tasks_sound h ha

theorem State.RecordsSound.takeClock (h : s.RecordsSound) (hf : s.clockFallen k = true) : (takeClock k s).RecordsSound := by
  obtain ⟨a, ha, hworks, -⟩ := clockFallen_iff.1 hf
  obtain ⟨w, htake, hran⟩ := takeClock_ran ha
  have hsound : ({ a with clockDue := false } : Task).Sound s.segments := { h.tasks k a ha with due := nofun }
  refine ⟨(takeClock_leaves k s).store h.store, ?_⟩
  rw [htake]
  exact finish_tasksSound (hran.tasks_sound h ha rfl hsound hworks)

theorem State.RecordsSound.takeExpiry (h : s.RecordsSound) (hf : s.expiryFallen k = true) :
    (takeExpiry k s).RecordsSound := by
  obtain ⟨a, b, outs, reports, carry, ha, hrun, hends, htake⟩ := takeExpiry_ends hf
  refine ⟨(takeExpiry_leaves k s).store h.store, ?_⟩
  rw [htake]
  exact finish_tasksSound (hends.tasks_sound h ha rfl (h.tasks k a ha) (inRun_iff.1 hrun))

/-! ### The requests -/

/-- A program that no task names may be given another content. -/
theorem State.RecordsSound.onProgram {f : Program → Program} (h : s.RecordsSound) (hp : (s.programs.get p).refCount = 0) :
    (s.onProgram p f).TasksSound := by
  intro j a ha
  refine (h.tasks j a ha).congr fun q hq => ?_
  have hne : q.program ≠ p := by
    intro e
    have hnames : s.names j p = true := names_iff.2 ⟨a, ha, by rw [hq, ← e]; rfl⟩
    rw [h.store.unnamed hp j] at hnames
    cases hnames
  simp [State.segments, State.onProgram, hne]

theorem segments_of_content (h : ∀ q, (t.programs.get q).segments = (s.programs.get q).segments) :
    t.segments = s.segments := funext h

theorem State.TasksSound.define {common : Common} {kind : KindParams} (h : s.TasksSound)
    (hallowed : RecordAllowed k common kind) : (s.define k common kind).TasksSound := by
  have hsegments : (s.define k common kind).segments = s.segments := segments_of_content fun q => by
    rw [State.define_programs, State.recount_programs]
  intro j b hb
  rw [hsegments]
  rw [State.task?_define] at hb
  split at hb
  next hj =>
    cases hb
    exact Task.Sound.defined (k := k) hallowed
  next => exact h j b hb

theorem State.TasksSound.delete (h : s.TasksSound) : (s.delete k a).TasksSound := by
  have hsegments : (s.delete k a).segments = s.segments := segments_of_content fun q => by
    rw [State.delete_programs, State.recount_programs]
  intro j b hb
  rw [hsegments]
  rw [State.task?_delete] at hb
  split at hb
  · cases hb
  · exact h j b hb

theorem State.RecordsSound.startSlots {members : List Slot} {cause : StartCause} (h : s.RecordsSound)
    (hnodup : members.Nodup) (hm : ∀ j ∈ members, s.isArmed j = true) :
    (Machine.startSlots members cause s).RecordsSound := by
  have hl := startSlots_leave hnodup cause s
  refine ⟨(startSlots_leaves members cause s).store h.store, .of_records hl.blocks.programs fun j b hb => ?_⟩
  by_cases hj : j ∈ members
  · rw [hl.begun j hj] at hb
    obtain ⟨a, ha, rfl⟩ := Option.map_eq_some_iff.1 hb
    obtain ⟨a', ha', harmed⟩ := isArmed_iff.1 (hm j hj)
    rw [ha] at ha'
    cases ha'
    exact (h.tasks j a ha).begun (by simp [harmed]) (h.store.playable ha)
  · rw [hl.others j hj] at hb
    exact h.tasks j b hb

theorem State.RecordsSound.endRun {ending : Ending} (h : s.RecordsSound) (ha : s.task? k = some a)
    (hrun : a.inRun = true) : (Machine.endRun k a ending s).RecordsSound := by
  refine ⟨(endRun_leaves ending ha).store h.store, ?_⟩
  have hstate : a.state ≠ .faulted := by rcases inRun_iff.1 hrun with hs | hs <;> simp [hs]
  have hdone := (h.tasks k a ha).done hstate
  rw [endRun_eq]
  refine State.TasksSound.offering ?_
  have hengine : a.engine.ended = (match a.engine with
      | .deadline p r => .deadline p { r with expiryDue := false }
      | y => y) := by cases a.engine <;> rfl
  rw [Task.left, hengine] at hdone
  exact h.tasks.setTask hdone

theorem inRun_of_atRest (h : a.state.atRest = true) : a.state.inRun = false := by
  rcases atRest_iff.1 h with h | h | h <;> rw [h] <;> rfl

theorem Served.tasks_sound (hv : Served c s t) (h : s.RecordsSound) : t.TasksSound := by
  induction hv with
  | settled _ ih => exact ih (recordsSound_turns.settle h)
  | tasksFreed s =>
    intro j b hb
    have hnone : ((freeAllSlots s).offerDevice (.deviceReset .tasks)).task? j = none := by
      simp [freeAllSlots, State.task?]
    rw [hnone] at hb
    cases hb
  | loaded s p final segments hf hp => exact h.onProgram hp
  | appended s p final segments hf hstate =>
    refine h.onProgram ?_
    by_contra hne
    rw [h.store.inUseSealed p hne] at hstate
    cases hstate
  | erased s p hp => exact h.onProgram hp
  | defined s k common kind hf => exact h.tasks.define (recordAllowed_of_recordOf? hf)
  | deleted s k a => exact h.tasks.delete
  | armed s k a hk hrest =>
    have hset := h.tasks.setTask ((h.tasks k a hk).armed (inRun_of_atRest hrest)) (k := k)
    refine hset.congr ?_ fun _ => ?_
    all_goals
      unfold State.driveOpt
      cases a.engine.alertLine? <;> rfl
  | disarmed s k a hk harmed =>
    have hset := h.tasks.setTask ((h.tasks k a hk).disarmed (by simp [harmed])) (k := k)
    exact hset.congr rfl fun _ => rfl
  | started s k harmed =>
    refine (recordsSound_turns.endEventsOf _ (h.startSlots (List.nodup_singleton k) fun j hj => ?_)).tasks
    rwa [List.mem_singleton.1 hj]
  | groupStarted s slots turns hnodup harmed =>
    exact (recordsSound_turns.endEventsOf _ (recordsSound_turns.takeTurns turns (h.startSlots hnodup harmed))).tasks
  | stopping s k a hk hs hf => exact h.tasks.setTask ((h.tasks k a hk).stoppingRun hs hf)
  | runEnded s k a ending hk hrun => exact (recordsSound_turns.endEventsOf _ (h.endRun hk hrun)).tasks
  | positionSet s k a p r x hk he =>
    have hsound := h.tasks k a hk
    refine h.tasks.setTask (hsound.setEngine ?_ fun hst => ?_)
    · have heng := hsound.engine
      rw [he] at heng
      exact heng
    · have hfin := hsound.stopping hst
      rw [he] at hfin
      exact hfin
  | _ => exact h.tasks.congr rfl fun _ => rfl

/-! ### The commands -/

theorem arbitrate_left (s : State) :
    (arbitrate s.endFrame).tasks = s.tasks ∧ (arbitrate s.endFrame).lines = s.lines ∧
      (arbitrate s.endFrame).programs = s.programs ∧ (arbitrate s.endFrame).inReset = s.inReset := by
  unfold arbitrate
  repeat' split
  all_goals exact ⟨rfl, rfl, rfl, rfl⟩

theorem Happens.tasks_sound (hv : Happens c s t) (h : s.RecordsSound) : t.TasksSound := by
  induction hv with
  | nothing => exact h.tasks
  | settled _ ih => exact ih (recordsSound_turns.settle h)
  | @request _ s e _ f _ r _ _ _ _ hserved =>
    have he : e.TasksSound := hserved.tasks_sound (h.congr rfl fun _ => rfl)
    exact he.congr rfl fun _ => rfl
  | @arbitrated _ s =>
    obtain ⟨htasks, -, hprog, -⟩ := arbitrate_left s
    exact h.tasks.congr hprog fun j => by rw [State.task?, htasks]; rfl
  | reset s cause straps =>
    intro j b hb
    have hnone : (resetTo s.pending cause straps).task? j = none := by simp [resetTo, State.task?]
    rw [hnone] at hb
    cases hb
  | @ticked s =>
    refine .of_records (s := s) rfl fun j b hb => ?_
    rw [State.task?, Bank.get_map] at hb
    obtain ⟨a, ha, rfl⟩ := Option.map_eq_some_iff.1 hb
    exact (h.tasks j a ha).ticked
  | turned turns => exact (recordsSound_turns.takeTurns turns h).tasks
  | updated k turns => exact (recordsSound_turns.takeTurns turns h.takeUpdate).tasks
  | clocked k turns hr hf => exact (recordsSound_turns.takeTurns turns (h.takeClock hf)).tasks
  | expired k turns hr hf => exact (recordsSound_turns.takeTurns turns (h.takeExpiry hf)).tasks
  | _ => exact h.tasks.congr rfl fun _ => rfl

/-- Settles O57: each change of a record is one of a sound one, the programs in use keeping their segments. -/
theorem everyStepKeepsTheTaskRecordsSound : Obligations.EveryStepKeepsTheTaskRecordsSound := by
  intro s t hstore htasks hstep
  have hsound : t.RecordsSound := step_keeps (P := State.RecordsSound) (fun _ _ h => h.congr rfl fun _ => rfl)
    (fun _ _ _ hv h => ⟨hv.store_sound h.store, hv.tasks_sound h⟩) ⟨hstore, htasks⟩ hstep
  exact hsound.tasks

end Sys2Proof.Machine
end

section
/-! Every command keeps the claim map and the output owners in agreement with the task records (R2, R6, R35, R39). -/

namespace Sys2Proof.Machine

variable {s t : State} {k j : Slot} {a b : Task} {c : Instr} {D : Slot → Prop} {L : OutLine → Prop} {common : Common}
  {kind : KindParams} {l : InLine} {m : OutLine}

/-! ### What the agreement depends on -/

theorem exists_record_congr {Q : Common → KindParams → Prop}
    (h : (t.task? k).map Task.fixed = (s.task? k).map Task.fixed) :
    (∃ a, t.task? k = some a ∧ Q a.common a.engine.params) ↔ ∃ a, s.task? k = some a ∧ Q a.common a.engine.params := by
  have hfixed : ∀ u : State, (∃ a, u.task? k = some a ∧ Q a.common a.engine.params) ↔
      ∃ x, (u.task? k).map Task.fixed = some x ∧ Q x.1 x.2 := fun u => by
    simp only [Option.map_eq_some_iff]
    exact ⟨fun ⟨a, ha, hq⟩ => ⟨a.fixed, ⟨a, ha, rfl⟩, hq⟩, fun ⟨_, ⟨a, ha, hx⟩, hq⟩ => ⟨a, ha, by rw [← hx] at hq; exact hq⟩⟩
  rw [hfixed t, hfixed s, h]

/-- The claims are the same, the lines are owned by the same tasks, and the slots hold the same tasks. -/
theorem State.OwnershipSound.congr (h : s.OwnershipSound)
    (hclaims : ∀ l, (t.lines.inputs.get l).claims = (s.lines.inputs.get l).claims)
    (howner : ∀ l k r, (t.lines.outputs.get l).owner = .task k r ↔ (s.lines.outputs.get l).owner = .task k r)
    (hfixed : ∀ j, (t.task? j).map Task.fixed = (s.task? j).map Task.fixed) : t.OwnershipSound where
  claims l k r := by
    rw [hclaims l, h.claims l k r]
    exact (exists_record_congr (Q := fun c p => (l, r) ∈ claimsOf c p) (hfixed k)).symm
  places l := by rw [hclaims l]; exact h.places l
  ordered l := by rw [hclaims l]; exact h.ordered l
  owners l k r := by
    rw [howner l k r, h.owners l k r]
    exact (exists_record_congr (Q := fun c p => (l, r) ∈ outputsOf c p) (hfixed k)).symm

theorem Touches.ownership (ht : Touches D L s t) (h : s.OwnershipSound) : t.OwnershipSound :=
  h.congr (fun l => by rw [ht.outside.blocks.inputs]) (fun l k r => by rw [ht.owner l]) ht.fixed

/-- No slot holds a task, no line carries a claim, and no task owns a line. -/
theorem ownershipSound_of_free (htask : ∀ k, s.task? k = none) (hclaims : ∀ l, (s.lines.inputs.get l).claims = [])
    (howner : ∀ l k r, (s.lines.outputs.get l).owner ≠ .task k r) : s.OwnershipSound where
  claims l k r := by simp [hclaims l, htask k]
  places l := by simp [hclaims l]
  ordered l := by simp [hclaims l]
  owners l k r := by simp [howner l k r, htask k]

/-- One output line that no task owns, before and after. -/
theorem State.OwnershipSound.onOutput {f : Output → Output} (h : s.OwnershipSound)
    (howner : ∀ k r, (f (s.lines.outputs.get m)).owner = .task k r ↔ (s.lines.outputs.get m).owner = .task k r) :
    (s.onOutput m f).OwnershipSound := by
  refine h.congr (fun _ => rfl) (fun l k r => ?_) fun _ => rfl
  by_cases hl : l = m
  · subst hl
    simpa using howner k r
  · simp [hl]

theorem not_owned_of_taskOwned {o : Output} (h : o.taskOwned = false) (k : Slot) (r : OutRole) : o.owner ≠ .task k r := by
  intro ho
  rw [Output.taskOwned, ho] at h
  cases h

theorem State.OwnershipSound.setTask (h : s.OwnershipSound) (ha : s.task? k = some a) (hb : b.fixed = a.fixed) :
    (s.setTask k b).OwnershipSound := h.congr (fun _ => rfl) (fun _ _ _ => Iff.rfl) (fixed_setTask ha hb)

/-! ### The claims of a defined task (R6, R35) -/

theorem InRole.code_lt (r : InRole) : r.code.toNat < 16 := by cases r <;> decide

theorem InRole.code_injective {r q : InRole} (h : r.code.toNat = q.code.toNat) : r = q := by
  have hordered : ∀ r : InRole, [InRole.clock, .clock, .trigger, .gate, .signal, .window, .phaseA, .phaseB, .index, .kick][
      r.code.toNat]? = some r := fun r => by cases r <;> rfl
  have hr := hordered r
  rw [h, hordered q] at hr
  exact (Option.some.inj hr).symm

theorem claimRank_injective {x y : Slot × InRole} (h : claimRank x = claimRank y) : x = y := by
  obtain ⟨k, r⟩ := x
  obtain ⟨j, q⟩ := y
  have hr := r.code_lt
  have hq := q.code_lt
  simp only [claimRank] at h
  exact Prod.ext (Fin.ext (by dsimp only; omega)) (InRole.code_injective (by dsimp only; omega))

theorem insertClaim_ordered {x : Slot × InRole} {claims : List (Slot × InRole)}
    (h : claims.Pairwise fun c d => claimRank c < claimRank d) (hx : x ∉ claims) :
    (insertClaim x claims).Pairwise fun c d => claimRank c < claimRank d := by
  induction claims with
  | nil => exact List.pairwise_singleton ..
  | cons d rest ih =>
    obtain ⟨hd, hrest⟩ := List.pairwise_cons.1 h
    obtain ⟨hxd, hxrest⟩ := not_or.1 (mt List.mem_cons.2 hx)
    unfold insertClaim
    split
    next hlt =>
      refine List.pairwise_cons.2 ⟨fun y hy => ?_, h⟩
      rcases List.mem_cons.1 hy with rfl | hy
      exacts [hlt, hlt.trans (hd y hy)]
    next hle =>
      refine List.pairwise_cons.2 ⟨fun y hy => ?_, ih hrest hxrest⟩
      rcases List.mem_cons.1 ((insertClaim_perm x rest).mem_iff.1 hy) with rfl | hy
      · have hne : claimRank d ≠ claimRank y := fun e => hxd (claimRank_injective e).symm
        omega
      · exact hd y hy

theorem insertClaims_ordered {roles : List (InLine × InRole)} {claims : List (Slot × InRole)}
    (h : claims.Pairwise fun c d => claimRank c < claimRank d) (hroles : (roles.map Prod.snd).Nodup)
    (hnew : ∀ r, (k, r) ∉ claims ∨ r ∉ roles.map Prod.snd) :
    (insertClaims k roles claims).Pairwise fun c d => claimRank c < claimRank d := by
  induction roles generalizing claims with
  | nil => exact h
  | cons x rest ih =>
    rw [List.map_cons, List.nodup_cons] at hroles
    refine ih (insertClaim_ordered h ((hnew x.2).resolve_right (by simp))) hroles.2 fun r => ?_
    rw [(insertClaim_perm (k, x.2) claims).mem_iff, List.mem_cons, not_or]
    by_cases hr : r = x.2
    · exact .inr (hr ▸ hroles.1)
    · refine (hnew r).imp (fun h => ⟨fun e => hr (Prod.mk.inj e).2, h⟩) fun h hr => h ?_
      rw [List.map_cons]
      exact List.mem_cons_of_mem _ hr

/-- A task claims a line at most once in a role. -/
theorem claimsOf_nodup (common : Common) (kind : KindParams) : ((claimsOf common kind).map Prod.snd).Nodup := by
  unfold claimsOf
  cases common.clock <;> cases common.trigger <;> cases common.gate <;> cases kind with
  | windowCount p => cases hp : p.source <;> simp [hp]
  | position p => cases hp : p.index <;> simp [hp]
  | _ => simp

theorem mem_insertClaims {roles : List (InLine × InRole)} {claims : List (Slot × InRole)} {r : InRole} :
    (j, r) ∈ insertClaims k roles claims ↔ (j = k ∧ r ∈ roles.map Prod.snd) ∨ (j, r) ∈ claims := by
  rw [(insertClaims_perm roles claims).mem_iff, List.mem_append]
  refine or_congr ?_ Iff.rfl
  simp only [List.mem_map, Prod.mk.injEq]
  exact ⟨fun ⟨c, hc, hk, hr⟩ => ⟨hk.symm, c, hc, hr⟩, fun ⟨hk, c, hc, hr⟩ => ⟨c, hc, hk.symm, hr⟩⟩

theorem mem_roles_filter {r : InRole} :
    r ∈ (((claimsOf common kind).filter fun x => x.1 == l).map Prod.snd) ↔ (l, r) ∈ claimsOf common kind := by
  simp only [List.mem_map, List.mem_filter, beq_iff_eq]
  constructor
  · rintro ⟨⟨l', r'⟩, ⟨hmem, rfl⟩, rfl⟩
    exact hmem
  · exact fun h => ⟨(l, r), ⟨h, rfl⟩, rfl⟩

theorem mem_fst_outputsOf {x : OutLine × OutRole} (h : x ∈ outputsOf common kind) :
    x.1 ∈ (outputsOf common kind).map Prod.fst := List.mem_map_of_mem h

/-- An owner after a definition. -/
theorem State.define_owner (s : State) (k : Slot) (hnodup : ((outputsOf common kind).map Prod.fst).Nodup) {r : OutRole}
    (hfree : s.outputsFree (outputsOf common kind) = true) :
    ((s.define k common kind).lines.outputs.get m).owner = .task j r ↔
      (j = k ∧ (m, r) ∈ outputsOf common kind) ∨ (s.lines.outputs.get m).owner = .task j r := by
  by_cases hm : m ∈ (outputsOf common kind).map Prod.fst
  · obtain ⟨⟨m', r'⟩, hmem, rfl⟩ := List.mem_map.1 hm
    have hnone : (s.lines.outputs.get m').owner = .none := by
      simpa using List.all_eq_true.1 hfree _ hmem
    rw [State.define_outputs_named s k common kind hnodup hmem, hnone]
    have hrole : ∀ r, (m', r) ∈ outputsOf common kind → r = r' := fun r hr =>
      (Prod.mk.inj (List.inj_on_of_nodup_map hnodup hr hmem rfl)).2
    simp only [Owner.task.injEq, reduceCtorEq, or_false]
    constructor
    · rintro ⟨rfl, rfl⟩
      exact ⟨rfl, hmem⟩
    · rintro ⟨rfl, hr⟩
      exact ⟨rfl, (hrole r hr).symm⟩
  · rw [State.define_outputs_other s k common kind hm]
    refine ⟨.inr, fun h => h.resolve_left fun ⟨_, hr⟩ => hm (mem_fst_outputsOf hr)⟩

theorem State.OwnershipSound.define (h : s.OwnershipSound) (hallowed : RecordAllowed k common kind) (hk : s.task? k = none)
    (hout : s.outputsFree (outputsOf common kind) = true) (hin : s.claimsFit (claimsOf common kind) = true) :
    (s.define k common kind).OwnershipSound := by
  have hnone : ∀ l r, (k, r) ∉ (s.lines.inputs.get l).claims := fun l r hr => by
    obtain ⟨a, ha, -⟩ := (h.claims l k r).1 hr
    rw [hk] at ha
    cases ha
  have hrecord : ∀ {Q : Common → KindParams → Prop} j,
      (∃ a, (s.define k common kind).task? j = some a ∧ Q a.common a.engine.params) ↔
        (j = k ∧ Q common kind) ∨ ∃ a, s.task? j = some a ∧ Q a.common a.engine.params := fun {Q} j => by
    rw [State.task?_define]
    by_cases hj : j = k
    · subst hj
      have hparams := params_definedTask s common kind
      simp only [if_true, hk, Option.some.injEq, exists_eq_left', hparams, true_and]
      simp [definedTask]
    · simp [hj]
  refine ⟨fun l j r => ?_, fun l => ?_, fun l => ?_, fun m j r => ?_⟩
  · rw [State.define_inputs, mem_insertClaims, mem_roles_filter, h.claims l j r]
    exact (hrecord (Q := fun c p => (l, r) ∈ claimsOf c p) j).symm
  · rw [State.define_inputs]
    have hfit := of_decide_eq_true (List.all_eq_true.1 hin l (mem_indices l))
    have hlen := (insertClaims_perm (k := k) ((claimsOf common kind).filter fun x => x.1 == l)
      (s.lines.inputs.get l).claims).length_eq
    rw [List.length_append, List.length_map] at hlen
    simp only [placesOn, Config.claimPlaces] at hfit
    dsimp only
    omega
  · rw [State.define_inputs]
    exact insertClaims_ordered (h.ordered l) ((claimsOf_nodup common kind).sublist (List.filter_sublist.map _))
      fun r => .inl (hnone l r)
  · rw [State.define_owner s k hallowed.outputs hout, h.owners m j r]
    exact (hrecord (Q := fun c p => (m, r) ∈ outputsOf c p) j).symm

/-! ### A deleted task (R7) -/

theorem State.OwnershipSound.delete (h : s.OwnershipSound) : (s.delete k a).OwnershipSound := by
  have hrecord : ∀ {Q : Common → KindParams → Prop} j,
      (∃ a', (s.delete k a).task? j = some a' ∧ Q a'.common a'.engine.params) ↔
        j ≠ k ∧ ∃ a', s.task? j = some a' ∧ Q a'.common a'.engine.params := fun {Q} j => by
    rw [State.task?_delete]
    by_cases hj : j = k <;> simp [hj]
  refine ⟨fun l j r => ?_, fun l => ?_, fun l => ?_, fun m j r => ?_⟩
  · rw [State.delete_inputs, hrecord (Q := fun c p => (l, r) ∈ claimsOf c p) j, ← h.claims l j r]
    simp [and_comm]
  · rw [State.delete_inputs]
    exact (List.length_filter_le ..).trans (h.places l)
  · rw [State.delete_inputs]
    exact (h.ordered l).filter _
  · rw [State.delete_outputs, hrecord (Q := fun c p => (m, r) ∈ outputsOf c p) j, ← h.owners m j r]
    split
    next howned =>
      obtain ⟨r', hr'⟩ := ownedBy_iff.1 howned
      rw [hr']
      simp only [Output.release, reduceCtorEq, Owner.task.injEq, false_iff, not_and]
      exact fun hj e _ => hj e.symm
    next howned =>
      refine ⟨fun ho => ⟨?_, ho⟩, And.right⟩
      rintro rfl
      exact howned (ownedBy_iff.2 ⟨r, ho⟩)

/-! ### The commands -/

theorem State.OwnershipSound.settle (h : s.OwnershipSound) : s.settle.OwnershipSound :=
  (touches_settle (D := fun _ => True) fun _ _ => trivial).ownership h

theorem State.OwnershipSound.takeTurns (h : s.OwnershipSound) (turns : Turns) : (s.takeTurns turns).OwnershipSound :=
  (touches_takeTurns (D := fun _ => True) turns fun _ _ => trivial).ownership h

theorem State.OwnershipSound.endEventsOf (h : s.OwnershipSound) (slots : List Slot) :
    (s.endEventsOf slots).OwnershipSound := (touches_endEventsOf (D := fun _ => True) slots fun _ _ => trivial).ownership h

theorem State.OwnershipSound.same (h : s.OwnershipSound) (hslots : t.tasks.slots = s.tasks.slots)
    (hlines : t.lines = s.lines) : t.OwnershipSound :=
  h.congr (fun l => by rw [hlines]) (fun l k r => by rw [hlines]) fun j => by rw [State.task?, hslots]; rfl

theorem owner_cutMark (o : Output) : o.cutMark.owner = o.owner := by
  unfold Output.cutMark
  split <;> rfl

theorem claims_sampleAll (u : LineUnit) (levels : Bank Level 12) (l : InLine) :
    ((u.sampleAll levels).inputs.get l).claims = (u.inputs.get l).claims := by
  rw [sampleAll_input_eq]

theorem Served.ownership (hv : Served c s t) (h : s.OwnershipSound) : t.OwnershipSound := by
  induction hv with
  | settled _ ih => exact ih h.settle
  | tasksFreed s =>
    refine ownershipSound_of_free (fun k => by simp [freeAllSlots, State.task?]) (fun l => by simp [freeAllSlots])
      fun l k r => ?_
    simp only [freeAllSlots, State.offerDevice_lines, Bank.get_map]
    split
    · simp [Output.release]
    next howned => exact not_owned_of_taskOwned (by simpa using howned) k r
  | timeRestarted s rate =>
    refine h.congr (fun _ => rfl) (fun l k r => ?_) fun _ => rfl
    simp only [State.restartTime, Bank.get_map, owner_cutMark]
  | inputConfigured s l pol n =>
    refine h.congr (fun i => ?_) (fun _ _ _ => Iff.rfl) fun _ => rfl
    by_cases hi : i = l
    · subst hi
      simp [State.onInput, Input.configure]
    · simp [State.onInput, hi]
  | outputConfigured s l idle => exact h.onOutput fun _ _ => Iff.rfl
  | outputActive s l howner => exact h.onOutput fun k r => by simp [Output.host, not_owned_of_taskOwned howner k r]
  | outputIdle s l howner => exact h.onOutput fun k r => by simp [Output.host, not_owned_of_taskOwned howner k r]
  | outputReleased s l howner =>
    exact h.onOutput fun k r => by simp [Output.release, not_owned_of_taskOwned howner k r]
  | defined s k common kind hf hk _ hout hin => exact h.define (recordAllowed_of_recordOf? hf) hk hout hin
  | deleted s k a => exact h.delete
  | armed s k a hk =>
    have hset := h.setTask (b := a.armed) hk (Task.armed_fixed a)
    unfold State.driveOpt
    cases a.engine.alertLine? with
    | none => exact hset
    | some l => exact hset.onOutput fun _ _ => Iff.rfl
  | disarmed s k a hk =>
    exact (Touches.restOutputs (D := fun _ => True) (L := fun _ => True) fun _ _ _ => trivial).ownership
      (h.setTask (b := a.disarmed) hk (by simp [Task.disarmed, Task.fixed]))
  | started s k => exact ((startSlots_leaves _ _ s).touches.ownership h).endEventsOf _
  | groupStarted s slots turns =>
    exact (((startSlots_leaves _ _ s).touches.ownership h).takeTurns turns).endEventsOf _
  | stopping s k a hk => exact h.setTask hk rfl
  | runEnded s k a ending hk => exact ((endRun_leaves ending hk).touches.ownership h).endEventsOf _
  | positionSet s k a p r x hk he => exact h.setTask hk (by simp [Task.fixed, he, Engine.params])
  | _ => exact h.same rfl rfl

theorem Happens.ownership (hv : Happens c s t) (h : s.OwnershipSound) : t.OwnershipSound := by
  induction hv with
  | nothing => exact h
  | settled _ ih => exact ih h.settle
  | @request _ s e _ f _ r _ _ _ _ hserved =>
    have he : e.OwnershipSound := hserved.ownership (h.same rfl rfl)
    exact he.same rfl rfl
  | @arbitrated _ s =>
    obtain ⟨htasks, hlines, -⟩ := arbitrate_left s
    exact h.same (congrArg TaskTable.slots htasks) hlines
  | reset s cause straps =>
    exact ownershipSound_of_free (fun k => by simp [resetTo, State.task?]) (fun l => by simp [resetTo, Input.reset])
      fun l k r => by simp [resetTo, Output.reset]
  | cut s cause =>
    exact h.congr (fun _ => rfl) (fun l k r => by simp [Output.lowInReset]) fun _ => rfl
  | @sampled s levels =>
    exact h.congr (fun l => claims_sampleAll s.lines levels l) (fun _ _ _ => Iff.rfl) fun _ => rfl
  | @ticked s =>
    refine h.congr (fun _ => rfl) (fun _ _ _ => Iff.rfl) fun j => ?_
    rw [State.task?, Bank.get_map]
    change Option.map Task.fixed (Option.map Task.ticked (s.task? j)) = _
    rw [Option.map_map]
    congr 1
    exact funext Task.ticked_fixed
  | pulseEnded l => exact h.onOutput fun _ _ => Iff.rfl
  | turned turns => exact h.takeTurns turns
  | @updated s v k turns =>
    exact ((takeUpdate_leaves k v _).touches.ownership (h.same (t := s.dropUpdate k) rfl rfl)).takeTurns turns
  | clocked k turns => exact ((takeClock_leaves k _).touches.ownership h).takeTurns turns
  | expired k turns => exact ((takeExpiry_leaves k _).touches.ownership h).takeTurns turns
  | _ => exact h.same rfl rfl

end Sys2Proof.Machine
end

section
/-! What an output line shows of the task that owns it (R39, R43, R71, R133), and that an event at one slot which redraws the
lines of its own task accordingly keeps every line so. -/

namespace Sys2Proof.Machine

variable {s t x : State} {w : Work} {k j : Slot} {a a₀ b : Task} {now : Time} {m l : OutLine} {r role : OutRole}
  {segments : Prog → List Segment} {outs outs' : Bank Output 8} {reports : List Report} {carry : Bool} {o : Output}
  {f : Output → Output} {active : Bool}

/-! ### What a line shows -/

/-- Whether a task's run state puts the line it owns in a role at the active level, where the run state says so: the current
segment, idle out of a run, for a WAVE (R71), and the alert flag for an ALERT (R133). -/
def Task.drives (segments : Prog → List Segment) (a : Task) : OutRole → Option Bool
  | .wave =>
    match a.engine with
    | .pulseTrain p r =>
      if a.inRun then (segments p.program)[r.index]?.map fun g => g.level == .active else some false
    | _ => none
  | .alert =>
    match a.engine with
    | .deadline _ r => some r.alert
    | _ => none
  | .mark => none

/-- The output shows what a task says of it in a role. -/
structure Output.Follows (segments : Prog → List Segment) (o : Output) (a : Task) (r : OutRole) : Prop where
  level : ∀ active, a.drives segments r = some active → (o.level ≠ o.idle ↔ active = true)
  marked : r = .mark → (o.level ≠ o.idle ↔ o.markEnd ≠ none)
  unmarked : r ≠ .mark → o.markEnd = none

/-- Every line shows what its owner says. -/
structure State.LinesFollow (s : State) : Prop where
  free : ∀ l, (∀ k r, (s.lines.outputs.get l).owner ≠ .task k r) → (s.lines.outputs.get l).markEnd = none ∧
    ((s.lines.outputs.get l).owner = .none → (s.lines.outputs.get l).level = (s.lines.outputs.get l).idle)
  owned : ∀ l k r a, (s.lines.outputs.get l).owner = .task k r → s.task? k = some a →
    (s.lines.outputs.get l).Follows s.segments a r

theorem drives_wave {p : TrainParams} {q : TrainRun} (he : a.engine = .pulseTrain p q) :
    a.drives segments .wave =
      if a.inRun then (segments p.program)[q.index]?.map fun g => g.level == .active else some false := by
  simp only [Task.drives, he]

theorem drives_alert {p : DeadlineParams} {q : DeadlineRun} (he : a.engine = .deadline p q) :
    a.drives segments .alert = some q.alert := by
  simp only [Task.drives, he]

theorem mem_outputsOf_wave {c : Common} {kind : KindParams} :
    (l, OutRole.wave) ∈ outputsOf c kind ↔ ∃ p, kind = .pulseTrain p ∧ p.wave = l := by
  unfold outputsOf
  cases c.mark <;> cases kind with
  | deadline p => cases hp : p.alert <;> simp [hp]
  | pulseTrain p => simp [eq_comm]
  | _ => simp

theorem mem_outputsOf_alert {c : Common} {kind : KindParams} :
    (l, OutRole.alert) ∈ outputsOf c kind ↔ ∃ p, kind = .deadline p ∧ p.alert = some l := by
  unfold outputsOf
  cases c.mark <;> cases kind with
  | deadline p => cases hp : p.alert <;> simp [hp, eq_comm]
  | _ => simp

theorem mem_outputsOf_mark {c : Common} {kind : KindParams} :
    (l, OutRole.mark) ∈ outputsOf c kind ↔ ∃ x, c.mark = some x ∧ x.line = l := by
  unfold outputsOf
  cases c.mark <;> cases kind with
  | deadline p => cases hp : p.alert <;> simp [hp, eq_comm]
  | _ => simp [eq_comm]

/-- A record names one line a role. -/
theorem outputsOf_line_unique {c : Common} {kind : KindParams} (hl : (l, r) ∈ outputsOf c kind)
    (hm : (m, r) ∈ outputsOf c kind) : l = m := by
  cases r with
  | wave =>
    obtain ⟨p, rfl, rfl⟩ := mem_outputsOf_wave.1 hl
    obtain ⟨q, hq, rfl⟩ := mem_outputsOf_wave.1 hm
    cases hq
    rfl
  | mark =>
    obtain ⟨y, hy, rfl⟩ := mem_outputsOf_mark.1 hl
    obtain ⟨z, hz, rfl⟩ := mem_outputsOf_mark.1 hm
    rw [hy] at hz
    cases hz
    rfl
  | alert =>
    obtain ⟨p, rfl, hp⟩ := mem_outputsOf_alert.1 hl
    obtain ⟨q, hq, hqm⟩ := mem_outputsOf_alert.1 hm
    cases hq
    rw [hp] at hqm
    exact Option.some.inj hqm

theorem State.OwnershipSound.record (h : s.OwnershipSound) (ho : (s.lines.outputs.get l).owner = .task k r) :
    ∃ a, s.task? k = some a ∧ (l, r) ∈ outputsOf a.common a.engine.params := (h.owners l k r).1 ho

/-- The line a task owns in a role, where the record names it. -/
theorem State.OwnershipSound.named (h : s.OwnershipSound) (ha : s.task? k = some a)
    (ho : (s.lines.outputs.get l).owner = .task k r) : (l, r) ∈ outputsOf a.common a.engine.params := by
  obtain ⟨b, hb, hmem⟩ := h.record ho
  rw [ha] at hb
  cases hb
  exact hmem

theorem pulseTrain_of_params {p : TrainParams} (h : a.engine.params = .pulseTrain p) : ∃ q, a.engine = .pulseTrain p q := by
  cases he : a.engine <;> rw [he] at h <;> cases h
  exact ⟨_, rfl⟩

/-- The levels of the outputs, told line by line. -/
theorem outputsSound_iff (ho : s.OwnershipSound) : s.OutputsSound ↔ s.LinesFollow := by
  constructor
  · intro h
    refine ⟨fun l hfree => ⟨?_, h.unowned l⟩, fun l k r a hl ha => ⟨fun active hd => ?_, ?_, fun hr => ?_⟩⟩
    · by_contra hne
      obtain ⟨k, hk⟩ := h.pulses l hne
      exact hfree k _ hk
    · cases r with
      | mark => cases hd
      | wave =>
        obtain ⟨p, hp, -⟩ := mem_outputsOf_wave.1 (ho.named ha hl)
        obtain ⟨q, he⟩ := pulseTrain_of_params hp
        rw [drives_wave he] at hd
        cases hrun : a.inRun with
        | false =>
          rw [hrun] at hd
          cases hd
          simp [h.waves l k a hl ha hrun]
        | true =>
          rw [hrun, if_pos rfl] at hd
          obtain ⟨g, hg, rfl⟩ := Option.map_eq_some_iff.1 hd
          rw [h.played l k a p q g hl ha hrun he hg, beq_iff_eq]
      | alert =>
        obtain ⟨p, hp, -⟩ := mem_outputsOf_alert.1 (ho.named ha hl)
        cases he : a.engine with
        | deadline p q =>
          rw [drives_alert he] at hd
          cases hd
          exact h.alerts l k a p q hl ha he
        | _ => rw [he] at hp; cases hp
    · rintro rfl
      exact h.marks l k hl
    · by_contra hne
      obtain ⟨i, hi⟩ := h.pulses l hne
      rw [hl] at hi
      exact hr (Owner.task.inj hi).2
  · intro h
    refine ⟨fun l hl => (h.free l fun k r => by rw [hl]; nofun).2 hl, fun l hmark => ?_, fun l k hl => ?_,
      fun l k a hl ha hrun => ?_, fun l k a p q g hl ha hrun he hg => ?_, fun l k a p q hl ha he => ?_⟩
    · by_cases howned : ∀ k r, (s.lines.outputs.get l).owner ≠ .task k r
      · exact absurd (h.free l howned).1 hmark
      · simp only [ne_eq, not_forall, not_not] at howned
        obtain ⟨k, r, hl⟩ := howned
        obtain ⟨a, ha, -⟩ := ho.record hl
        refine ⟨k, ?_⟩
        by_contra hne
        exact hmark ((h.owned l k r a hl ha).unmarked fun e => hne (e ▸ hl))
    · obtain ⟨a, ha, -⟩ := ho.record hl
      exact (h.owned l k _ a hl ha).marked rfl
    · obtain ⟨p, hp, -⟩ := mem_outputsOf_wave.1 (ho.named ha hl)
      obtain ⟨q, he⟩ := pulseTrain_of_params hp
      have hshown := (h.owned l k _ a hl ha).level false (by rw [drives_wave he, hrun]; rfl)
      by_contra hne
      cases hshown.1 hne
    · rw [(h.owned l k _ a hl ha).level (g.level == .active) (by rw [drives_wave he, hrun, hg]; rfl), beq_iff_eq]
    · exact (h.owned l k _ a hl ha).level _ (drives_alert he)

/-! ### One output -/

theorem drive_active_iff : (o.drive active).level ≠ (o.drive active).idle ↔ active = true := by
  cases active <;> simp [Output.drive, otherLevel_ne]

/-- A record that says no more of a line. -/
theorem Output.Follows.mono {segments' : Prog → List Segment} (h : o.Follows segments a r)
    (hd : ∀ y, b.drives segments' r = some y → a.drives segments r = some y) : o.Follows segments' b r :=
  { h with level := fun y hy => h.level y (hd y hy) }

theorem Output.Follows.drive (h : o.Follows segments a r) (hr : r ≠ .mark)
    (hd : ∀ y, b.drives segments r = some y → y = active) : (o.drive active).Follows segments b r where
  level y hy := by rw [drive_active_iff, hd y hy]
  marked e := absurd e hr
  unmarked _ := h.unmarked hr

theorem follows_pulse {markEnd : Time} : (o.pulse markEnd).Follows segments b .mark where
  level _ hy := by cases hy
  marked _ := iff_of_true (drive_active_iff.2 rfl) nofun
  unmarked e := absurd rfl e

theorem follows_rest (hd : ∀ y, b.drives segments r = some y → y = false) : o.rest.Follows segments b r where
  level y hy := by simp [hd y hy, Output.rest]
  marked _ := by simp [Output.rest]
  unmarked _ := rfl

/-! ### One slot -/

theorem State.LinesFollow.congr (h : s.LinesFollow) (houts : t.lines.outputs = s.lines.outputs) (hprog : t.programs = s.programs)
    (htask : ∀ j, t.task? j = s.task? j) : t.LinesFollow := by
  have hsegments : t.segments = s.segments := State.segments_congr hprog
  exact ⟨fun l hl => by rw [houts] at hl ⊢; exact h.free l hl, fun l k r a hl ha => by
    rw [houts] at hl ⊢
    rw [hsegments]
    exact h.owned l k r a hl ((htask k).symm.trans ha)⟩

/-- The slot's record is another one, and of the output lines only the slot's own have changed, each to what the new record
says of it. -/
theorem State.LinesFollow.redrawn (h : s.LinesFollow) (ha : s.task? k = some a)
    (howner : ∀ l, (outs.get l).owner = (s.lines.outputs.get l).owner)
    (hother : ∀ l, (∀ r, (s.lines.outputs.get l).owner ≠ .task k r) → outs.get l = s.lines.outputs.get l)
    (hown : ∀ l r, (s.lines.outputs.get l).owner = .task k r → (s.lines.outputs.get l).Follows s.segments a r →
      (outs.get l).Follows s.segments b r) : ((s.setTask k b).withOutputs outs).LinesFollow where
  free l hl := by
    change ∀ k r, (outs.get l).owner ≠ .task k r at hl
    simp only [howner l] at hl
    change (outs.get l).markEnd = none ∧ ((outs.get l).owner = .none → (outs.get l).level = (outs.get l).idle)
    rw [hother l (hl k)]
    exact h.free l hl
  owned l j r c hl hc := by
    change (outs.get l).owner = .task j r at hl
    rw [howner l] at hl
    change (outs.get l).Follows s.segments c r
    by_cases hj : j = k
    · subst hj
      cases (State.task?_setTask_self s j b).symm.trans hc
      exact hown l r hl (h.owned l j r a hl ha)
    · rw [hother l fun r' e => hj (Owner.task.inj (hl.symm.trans e)).1]
      exact h.owned l j r c hl ((State.task?_setTask_ne s _ _ _ hj).symm.trans hc)

/-- The slot's record is another one that says no more of its lines. -/
theorem State.LinesFollow.setTask (h : s.LinesFollow) (ho : s.OwnershipSound) (ha : s.task? k = some a)
    (hd : ∀ l r, (l, r) ∈ outputsOf a.common a.engine.params → ∀ y, b.drives s.segments r = some y →
      a.drives s.segments r = some y) : (s.setTask k b).LinesFollow :=
  h.redrawn (outs := s.lines.outputs) ha (fun _ => rfl) (fun _ _ => rfl) fun l r hl hf =>
    hf.mono (hd l r (ho.named ha hl))

/-- The slot's record is another one, and one line of its own is redrawn. -/
theorem State.LinesFollow.modify (h : s.LinesFollow) (ho : s.OwnershipSound) (ha : s.task? k = some a)
    (hm : (m, role) ∈ outputsOf a.common a.engine.params) (hf : ∀ o, (f o).owner = o.owner)
    (hline : (s.lines.outputs.get m).Follows s.segments a role → (f (s.lines.outputs.get m)).Follows s.segments b role)
    (hd : ∀ r, r ≠ role → ∀ y, b.drives s.segments r = some y → a.drives s.segments r = some y) :
    ((s.setTask k b).withOutputs (s.lines.outputs.modify m f)).LinesFollow := by
  have howner : (s.lines.outputs.get m).owner = .task k role := (ho.owners m k role).2 ⟨a, ha, hm⟩
  refine h.redrawn ha (fun l => ?_) (fun l hl => ?_) fun l r hl hfollows => ?_
  · by_cases hlm : l = m
    · subst hlm
      simp [hf]
    · simp [hlm]
  · have hlm : l ≠ m := fun e => hl role (e ▸ howner)
    simp [hlm]
  · by_cases hlm : l = m
    · subst hlm
      obtain rfl : r = role := (Owner.task.inj (hl.symm.trans howner)).2
      rw [Bank.get_modify_self]
      exact hline hfollows
    · rw [Bank.get_modify_ne _ _ hlm]
      refine hfollows.mono (hd r fun e => hlm ?_)
      subst e
      exact outputsOf_line_unique (ho.named ha hl) hm

/-- The slot's record is another one that drives none of its lines, and these are at rest. -/
theorem State.LinesFollow.rested (h : s.LinesFollow) (ha : s.task? k = some a)
    (hd : ∀ r y, b.drives s.segments r = some y → y = false) : ((s.setTask k b).restOutputs k).LinesFollow := by
  have hget : ∀ l, ((s.setTask k b).restOutputs k).lines.outputs.get l =
      if (s.lines.outputs.get l).ownedBy k then (s.lines.outputs.get l).rest else s.lines.outputs.get l :=
    State.restOutputs_get (s.setTask k b) k
  refine h.redrawn (outs := ((s.setTask k b).restOutputs k).lines.outputs) ha (fun l => ?_) (fun l hl => ?_)
    fun l r hl _ => ?_
  · rw [hget l]
    split <;> rfl
  · rw [hget l]
    refine if_neg fun howned => ?_
    obtain ⟨r, hr⟩ := ownedBy_iff.1 howned
    exact hl r hr
  · rw [hget l, if_pos (ownedBy_iff.2 ⟨r, hl⟩)]
    exact follows_rest (hd r)

/-! ### The wave, the mark and the alert of a task -/

theorem State.LinesFollow.driven {p : TrainParams} {q q' : TrainRun} (h : s.LinesFollow) (ho : s.OwnershipSound)
    (ha : s.task? k = some a) (he : a.engine = .pulseTrain p q) (hb : b.engine = .pulseTrain p q') :
    b.inRun = true → ((s.setTask k b).withOutputs (p.driven s.segments q'.index s.lines.outputs)).LinesFollow := by
  intro hrun
  have hwave : (p.wave, OutRole.wave) ∈ outputsOf a.common a.engine.params := mem_outputsOf_wave.2 ⟨p, by rw [he]; rfl, rfl⟩
  have hother : ∀ r, r ≠ .wave → ∀ y, b.drives s.segments r = some y → a.drives s.segments r = some y := fun r hr y hy => by
    cases r with
    | wave => exact absurd rfl hr
    | mark => cases hy
    | alert => simp only [Task.drives, hb] at hy; cases hy
  have hdrives := drives_wave (segments := s.segments) hb
  rw [hrun, if_pos rfl] at hdrives
  cases hg : (s.segments p.program)[q'.index]? with
  | some g =>
    rw [driven_of_some hg]
    rw [hg] at hdrives
    exact h.modify ho ha hwave (fun _ => rfl) (fun hf => hf.drive nofun fun y hy => by
      rw [hdrives] at hy; exact (Option.some.inj hy).symm) hother
  | none =>
    rw [TrainParams.driven, hg]
    rw [hg] at hdrives
    refine h.setTask ho ha fun l r _ y hy => ?_
    by_cases hr : r = .wave
    · rw [hr, hdrives] at hy
      cases hy
    · exact hother r hr y hy

theorem State.LinesFollow.waveIdle {p : TrainParams} {q q' : TrainRun} (h : s.LinesFollow) (ho : s.OwnershipSound)
    (ha : s.task? k = some a) (he : a.engine = .pulseTrain p q) (hb : b.engine = .pulseTrain p q') (hrun : b.inRun = false) :
    ((s.setTask k b).withOutputs (s.lines.outputs.modify p.wave fun o => o.drive false)).LinesFollow := by
  have hwave : (p.wave, OutRole.wave) ∈ outputsOf a.common a.engine.params := mem_outputsOf_wave.2 ⟨p, by rw [he]; rfl, rfl⟩
  refine h.modify ho ha hwave (fun _ => rfl) (fun hf => hf.drive nofun fun y hy => ?_) fun r hr y hy => ?_
  · rw [drives_wave hb, hrun] at hy
    exact (Option.some.inj hy).symm
  · cases r with
    | wave => exact absurd rfl hr
    | mark => cases hy
    | alert => simp only [Task.drives, hb] at hy; cases hy

theorem State.LinesFollow.marked (h : s.LinesFollow) (ho : s.OwnershipSound) (ha : s.task? k = some a)
    (hcommon : a₀.common = a.common) (hd : ∀ r y, b.drives s.segments r = some y → a.drives s.segments r = some y) :
    ((s.setTask k b).withOutputs (a₀.marked now s.lines.outputs)).LinesFollow := by
  unfold Task.marked
  rw [hcommon]
  cases hm : a.common.mark with
  | none => exact h.setTask ho ha fun _ r _ => hd r
  | some x =>
    exact h.modify ho ha (mem_outputsOf_mark.2 ⟨x, hm, rfl⟩) (fun _ => rfl) (fun _ => follows_pulse) fun r _ => hd r

theorem State.LinesFollow.alerted {p : DeadlineParams} {q q' : DeadlineRun} (h : s.LinesFollow) (ho : s.OwnershipSound)
    (ha : s.task? k = some a) (he : a.engine = .deadline p q) (hb : b.engine = .deadline p q') (halert : q'.alert = active) :
    ((s.setTask k b).withOutputs (p.alerted active s.lines.outputs)).LinesFollow := by
  have hother : ∀ r, r ≠ .alert → ∀ y, b.drives s.segments r = some y → a.drives s.segments r = some y := fun r hr y hy => by
    cases r with
    | wave => simp only [Task.drives, hb] at hy; cases hy
    | mark => cases hy
    | alert => exact absurd rfl hr
  unfold DeadlineParams.alerted
  cases hp : p.alert with
  | none =>
    refine h.setTask ho ha fun l r hl y hy => hother r (fun hr => ?_) y hy
    subst hr
    obtain ⟨p', hp', halert'⟩ := mem_outputsOf_alert.1 hl
    rw [he] at hp'
    cases hp'
    rw [hp] at halert'
    cases halert'
  | some x =>
    have hmem : (x, OutRole.alert) ∈ outputsOf a.common a.engine.params := mem_outputsOf_alert.2 ⟨p, by rw [he]; rfl, hp⟩
    refine h.modify ho ha hmem (fun _ => rfl) (fun hf => hf.drive nofun fun y hy => ?_) hother
    rw [drives_alert hb, halert] at hy
    exact (Option.some.inj hy).symm

end Sys2Proof.Machine
end

section
/-! The engines' events keep every output line as its owner says: a run's beginning, what a run goes on with, its completion
(R12, R20, R43, R71, R133). -/

namespace Sys2Proof.Machine

variable {s t x : State} {w : Work} {k j : Slot} {a a₀ b : Task} {now : Time} {l : OutLine} {r : OutRole}
  {segments : Prog → List Segment} {outs outs' : Bank Output 8} {reports : List Report} {carry : Bool}
  {level : InLine → Cond} {v : View}

/-! ### What the records say after each change -/

/-- What a task says of its lines is in its run state, and in that it is in a run or not. -/
theorem drives_of_inRun (he : b.engine = a.engine) (hrun : b.inRun = a.inRun) :
    b.drives segments r = a.drives segments r := by
  cases r <;> simp only [Task.drives, he, hrun]

theorem drives_congr (he : b.engine = a.engine) (hs : b.state = a.state) : b.drives segments r = a.drives segments r :=
  drives_of_inRun he (by rw [Task.inRun, hs, Task.inRun])

theorem drives_ended {st : TaskState} (hst : st.inRun = false) :
    (a.left st).drives segments .alert = a.drives segments .alert ∧
      (a.left st).drives segments .wave = (a.left .done).drives segments .wave := by
  have hrun : (a.left st).inRun = false := inRun_of_state rfl hst
  constructor
  · cases he : a.engine <;> simp only [Task.drives, Task.left, he, Engine.ended]
  · exact drives_of_inRun rfl hrun

theorem drives_begun_wave {p : TrainParams} {q : TrainRun} (he : a.engine = .pulseTrain p q) :
    (a.begun segments level now).drives segments .wave =
      (segments p.program)[0]?.map fun g => g.level == .active := by
  have hbegun : (a.begun segments level now).engine = .pulseTrain p (.atSegment (segments p.program) 0 0) := by
    simp only [Task.begun, he, Engine.fresh]
  rw [drives_wave hbegun, atSegment_index]
  rfl

theorem drives_begun_alert : (a.begun segments level now).drives segments .alert = a.drives segments .alert := by
  cases he : a.engine <;> simp only [Task.drives, Task.begun, he, Engine.fresh]

/-! ### A run begins -/

theorem driveWave_setTask (p : TrainParams) (q : TrainRun) :
    (s.setTask k b).driveWave (.pulseTrain p q) =
      (s.setTask k b).withOutputs (p.driven s.segments q.index s.lines.outputs) := by
  have hsegments : (s.setTask k b).segments = s.segments := rfl
  unfold State.driveWave TrainParams.driven
  dsimp only
  rw [hsegments]
  cases (s.segments p.program)[q.index]? <;> rfl

theorem State.LinesFollow.beginRun (h : s.LinesFollow) (ho : s.OwnershipSound) (k : Slot) (level : InLine → Cond)
    (now : Time) : (s.beginRun k level now).LinesFollow := by
  unfold State.beginRun
  cases ha : s.task? k with
  | none => exact h
  | some a =>
    dsimp only
    by_cases hwave : ∃ p q, a.engine = .pulseTrain p q
    · obtain ⟨p, q, he⟩ := hwave
      have hbegun : (a.begun s.segments level now).engine = .pulseTrain p (.atSegment (s.segments p.program) 0 0) := by
        simp only [Task.begun, he, Engine.fresh]
      rw [hbegun, driveWave_setTask]
      exact h.driven ho ha he hbegun rfl
    · have hdrive : (s.setTask k (a.begun s.segments level now)).driveWave (a.begun s.segments level now).engine =
          s.setTask k (a.begun s.segments level now) := by
        cases he : a.engine with
        | pulseTrain p q => exact absurd ⟨p, q, he⟩ hwave
        | _ => simp only [Task.begun, he, Engine.fresh]; rfl
      rw [hdrive]
      refine h.setTask ho ha fun l r hl y hy => ?_
      cases r with
      | wave =>
        obtain ⟨p, hp, -⟩ := mem_outputsOf_wave.1 hl
        obtain ⟨q, he⟩ := pulseTrain_of_params hp
        exact absurd ⟨p, q, he⟩ hwave
      | mark => cases hy
      | alert => rwa [drives_begun_alert] at hy

theorem State.LinesFollow.foldl_beginRun (h : s.LinesFollow) (ho : s.OwnershipSound) (members : List Slot) (now : Time) :
    (members.foldl (fun s j => s.beginRun j s.levelNow now) s).LinesFollow := by
  induction members generalizing s with
  | nil => exact h
  | cons j rest ih =>
    exact ih (h.beginRun ho j _ now) ((Quiet.beginRun (D := fun _ => True) _ trivial).touches.ownership ho)

/-! ### A run completes -/

theorem complete_touches : Touches (w.st.reach k) (w.st.linesAt (w.st.reach k)) w.st (w.complete k now carry).st := by
  have hown : (Work.of w.st).Own k w.st := .of w.st
  have hst : ((Work.of w.st).complete k now carry).st = (w.complete k now carry).st := by
    cases hb : w.st.task? k with
    | none => simp only [Work.complete, Work.of_st, hb]
    | some b => rw [complete_st hb, complete_st (w := Work.of w.st) hb]; rfl
  exact hst ▸ (hown.complete carry).quiet.touches

/-- A line that is no slot's WAVE line. -/
theorem State.OwnershipSound.waveNot_of_owner (ho : s.OwnershipSound)
    (hl : (s.lines.outputs.get l).owner ≠ .task j .wave) : s.WaveNot l j := by
  rintro a p ha hp rfl
  exact hl ((ho.owners _ _ _).2 ⟨a, ha, hp ▸ wave_mem⟩)

theorem complete_outputs_left (hb : w.st.task? k = some b) (harmed : b.state ≠ .armed) (ho : w.st.OwnershipSound)
    (hl : ∀ i, i = k ∨ i ∈ w.st.dependents k → (w.st.lines.outputs.get l).owner ≠ .task i .wave) :
    (w.complete k now carry).st.lines.outputs.get l = w.st.lines.outputs.get l :=
  complete_outputs_other hb harmed (fun p hp => ho.waveNot_of_owner (hl k (.inl rfl)) b p hb hp)
    fun i hi => ho.waveNot_of_owner (hl i (.inr hi))

theorem endState_inRun : b.endState.inRun = false := by
  unfold Task.endState
  split <;> rfl

/-- What the completed task says of its alert is what it said before. -/
theorem drives_completed_alert :
    (b.completed segments level now carry).drives segments .alert = b.drives segments .alert := by
  by_cases hgoes : b.goesOn
  · rw [Task.completed_goesOn hgoes]
    cases he : b.engine with
    | span p q =>
      simp only [Task.drives, Engine.nextRun, Engine.fresh, he]
      cases carry && p.mode == .period <;> rfl
    | _ => simp only [Task.drives, Engine.nextRun, he, Engine.fresh]
  · rw [Task.completed_ends hgoes]
    exact (drives_ended (a := { b with runCount := sat16 b.runCount }) endState_inRun).1

/-- A completion keeps the lines, where before it they show what the task says out of its run. -/
theorem complete_follows (hb : w.st.task? k = some b) (hs : b.state = .running ∨ b.state = .stopping)
    (ho : w.st.OwnershipSound) (hplay : ∀ i d, w.st.task? i = some d → d.engine.Playable w.st.segments)
    (h : (w.st.setTask k (b.left .done)).LinesFollow) : (w.complete k now carry).st.LinesFollow := by
  have harmed : b.state ≠ .armed := by rcases hs with hs | hs <;> simp [hs]
  have howner := (complete_touches (w := w) (k := k) (now := now) (carry := carry)).owner
  have hsegments : (w.complete k now carry).st.segments = w.st.segments :=
    State.segments_congr (complete_frame w k now carry).1.programs
  have hnot := not_mem_dependents_of_record hb harmed
  refine ⟨fun l hl => ?free, fun l j r c hl hc => ?owned⟩
  case free =>
    simp only [howner l] at hl
    rw [complete_outputs_left hb harmed ho fun i _ => hl i _]
    exact h.free l hl
  case owned =>
    rw [howner l] at hl
    rw [hsegments]
    rw [complete_task? hb] at hc
    have hleft : (∀ i, i = k ∨ i ∈ w.st.dependents k → i = j → r ≠ .wave) →
        (w.complete k now carry).st.lines.outputs.get l = w.st.lines.outputs.get l := fun hi =>
      complete_outputs_left hb harmed ho fun i hmem e => by
        obtain ⟨hij, hr⟩ := Owner.task.inj (hl.symm.trans e)
        exact hi i hmem hij.symm hr
    by_cases hj : j = k
    · subst hj
      rw [if_pos rfl] at hc
      cases hc
      have hfollows : (w.st.lines.outputs.get l).Follows w.st.segments (b.left .done) r :=
        h.owned l j r (b.left .done) hl (State.task?_setTask_self ..)
      by_cases hr : r = .wave
      · subst hr
        obtain ⟨p, hp, rfl⟩ := mem_outputsOf_wave.1 (ho.named hb hl)
        obtain ⟨q, he⟩ := pulseTrain_of_params hp
        have hdeps : ∀ i ∈ w.st.dependents j, w.st.WaveNot p.wave i := fun i hi =>
          ho.waveNot hb hp fun e => hnot (e ▸ hi)
        by_cases hgoes : b.goesOn
        · obtain ⟨g, hg, -⟩ := hplay j b hb p hp
          have hengine : (b.completed w.st.segments w.st.levelNow now carry).engine =
              .pulseTrain p (.atSegment (w.st.segments p.program) 0 0) := by
            rw [Task.completed_goesOn hgoes]
            simp only [he, Engine.nextRun, Engine.fresh]
          rw [complete_outputs_self hb harmed hgoes hdeps hengine (by rw [atSegment_index]; exact hg)]
          refine hfollows.drive nofun fun y hy => ?_
          have hrun : (b.completed w.st.segments w.st.levelNow now carry).inRun = true :=
            inRun_iff.2 (.inl (Task.completed_running.2 hgoes))
          rw [drives_wave hengine, hrun, if_pos rfl, atSegment_index, hg] at hy
          exact (Option.some.inj hy).symm
        · rw [complete_outputs_ended hb harmed hgoes hdeps]
          refine hfollows.mono fun y hy => ?_
          rw [Task.completed_ends hgoes] at hy
          rwa [(drives_ended (a := { b with runCount := sat16 b.runCount }) endState_inRun).2] at hy
      · rw [hleft fun _ _ _ => hr]
        refine hfollows.mono fun y hy => ?_
        cases r with
        | wave => exact absurd rfl hr
        | mark => cases hy
        | alert =>
          rw [drives_completed_alert] at hy
          rwa [(drives_ended rfl).1]
    · rw [if_neg hj] at hc
      have hfollows : ∀ d, w.st.task? j = some d → (w.st.lines.outputs.get l).Follows w.st.segments d r := fun d hd =>
        h.owned l j r d hl ((State.task?_setTask_ne _ _ _ _ hj).trans hd)
      split at hc
      next hdep =>
        obtain ⟨d, hd, rfl⟩ := Option.map_eq_some_iff.1 hc
        by_cases hr : r = .wave
        · subst hr
          obtain ⟨p, hp, rfl⟩ := mem_outputsOf_wave.1 (ho.named hd hl)
          obtain ⟨q, he⟩ := pulseTrain_of_params hp
          obtain ⟨g, hg, -⟩ := hplay j d hd p hp
          rw [complete_outputs_dependent hb harmed hdep hd he hg
            (fun q hq => ho.waveNot hd hp (Ne.symm hj) b q hb hq) fun i _ hi => ho.waveNot hd hp hi]
          refine (hfollows d hd).drive nofun fun y hy => ?_
          rw [drives_begun_wave he, hg] at hy
          exact (Option.some.inj hy).symm
        · rw [hleft fun _ _ _ => hr]
          refine (hfollows d hd).mono fun y hy => ?_
          cases r with
          | wave => exact absurd rfl hr
          | mark => cases hy
          | alert => rwa [drives_begun_alert] at hy
      next hdep =>
        rw [hleft fun i hi hij => absurd (hij ▸ hi) (not_or.2 ⟨hj, hdep⟩)]
        exact hfollows c hc

end Sys2Proof.Machine
end

section
/-! The engines' events keep every output line as its owner says: each kind's working edges and task clocks, and what an
update, a task clock and an expiry leave (R14 to R16, R57, R131). -/

namespace Sys2Proof.Machine

variable {s t x : State} {w : Work} {k j : Slot} {a a₀ b : Task} {now : Time} {l : OutLine} {r : OutRole}
  {outs outs' : Bank Output 8} {reports : List Report} {carry : Bool} {v : View}

theorem drives_silent (hwave : ∀ p q, a.engine ≠ .pulseTrain p q) (halert : ∀ p q, a.engine ≠ .deadline p q)
    {segments : Prog → List Segment} : a.drives segments r = none := by
  cases he : a.engine with
  | pulseTrain p q => exact absurd he (hwave p q)
  | deadline p q => exact absurd he (halert p q)
  | _ => cases r <;> simp only [Task.drives, he]

theorem alert_tick (p : DeadlineParams) (q : DeadlineRun) : (q.tick p).alert = q.alert := by
  unfold DeadlineRun.tick
  split <;> rfl

/-- A run that goes on keeps its lines as its record says. -/
theorem GoesOn.follows (hg : GoesOn x.segments now a x.lines.outputs b outs') (h : x.LinesFollow) (ho : x.OwnershipSound)
    (ha : x.task? k = some a) (hrun : a.inRun = true) : ((x.setTask k b).withOutputs outs').LinesFollow := by
  have hsame : ∀ {c : Task}, (∀ r y, c.drives x.segments r = some y → a.drives x.segments r = some y) →
      ((x.setTask k c).withOutputs x.lines.outputs).LinesFollow := fun hd => h.setTask ho ha fun _ r _ => hd r
  have hsilent : ∀ {c : Task}, (∀ p q, c.engine ≠ .pulseTrain p q) → (∀ p q, c.engine ≠ .deadline p q) →
      ∀ r y, c.drives x.segments r = some y → a.drives x.segments r = some y := fun hw hal r y hy => by
    rw [drives_silent hw hal] at hy
    cases hy
  cases hg with
  | left => exact hsame fun _ _ => id
  | @segment p q he =>
    refine hsame fun r y hy => ?_
    cases r with
    | wave =>
      rw [drives_wave he]
      exact hy
    | mark => cases hy
    | alert => cases hy
  | @begun p q index loops he =>
    have hindex := atSegment_index (x.segments p.program) index loops
    have hdriven := h.driven (b := { a with engine := .pulseTrain p (.atSegment (x.segments p.program) index loops) }) ho ha he
      rfl hrun
    rwa [hindex] at hdriven
  | count => exact hsame (hsilent nofun nofun)
  | span => exact hsame (hsilent nofun nofun)
  | window => exact hsame (hsilent nofun nofun)
  | position =>
    unfold Task.markedFor
    split
    · exact h.marked ho ha rfl (hsilent nofun nofun)
    · exact hsame (hsilent nofun nofun)
  | @deadline p q he =>
    refine hsame fun r y hy => ?_
    cases r with
    | wave => cases hy
    | mark => cases hy
    | alert =>
      rw [drives_alert he, ← alert_tick p q]
      exact hy
  | accepted he => exact h.alerted ho ha he rfl rfl

/-- A run that comes to its completion leaves its lines as its record says out of the run. -/
theorem Ends.follows (hg : Ends now a x.lines.outputs b outs') (h : x.LinesFollow) (ho : x.OwnershipSound)
    (ha : x.task? k = some a) : ((x.setTask k (b.left .done)).withOutputs outs').LinesFollow := by
  have hsilent : ∀ {c : Task}, (∀ p q, c.engine ≠ .pulseTrain p q) → (∀ p q, c.engine ≠ .deadline p q) →
      ∀ r y, c.drives x.segments r = some y → a.drives x.segments r = some y := fun hw hal r y hy => by
    rw [drives_silent hw hal] at hy
    cases hy
  cases hg with
  | train he => exact h.waveIdle ho ha he rfl rfl
  | count => exact h.marked ho ha rfl (hsilent nofun nofun)
  | span => exact h.marked ho ha rfl (hsilent nofun nofun)
  | window => exact h.marked ho ha rfl (hsilent nofun nofun)
  | @deadline p q q' he _ _ halert => exact h.alerted ho ha he rfl halert

/-- What an end keeps of the record and of the lines' owners. -/
theorem Ends.keeps (hg : Ends now a outs b outs') : b.state = a.state ∧ b.fixed = a.fixed ∧
    ∀ l, (outs'.get l).owner = (outs.get l).owner := by
  have hmodify : ∀ (m : OutLine) (f : Output → Output), (∀ o, (f o).owner = o.owner) →
      ∀ l, ((outs.modify m f).get l).owner = (outs.get l).owner := fun m f hf l => by
    by_cases hl : l = m
    · subst hl
      simp [hf]
    · simp [hl]
  have hmarked : ∀ l, ((a.marked now outs).get l).owner = (outs.get l).owner := by
    unfold Task.marked
    split
    exacts [hmodify _ _ fun _ => rfl, fun _ => rfl]
  have hfixed : ∀ {e : Engine}, e.params = a.engine.params → ({ a with engine := e } : Task).fixed = a.fixed := fun he =>
    Prod.ext rfl he
  cases hg with
  | train he => exact ⟨rfl, hfixed (by rw [he]; rfl), hmodify _ _ fun _ => rfl⟩
  | count he => exact ⟨rfl, hfixed (by rw [he]; rfl), hmarked⟩
  | span he => exact ⟨rfl, hfixed (by rw [he]; rfl), hmarked⟩
  | window he => exact ⟨rfl, hfixed (by rw [he]; rfl), hmarked⟩
  | @deadline p q q' he =>
    refine ⟨rfl, hfixed (by rw [he]; rfl), ?_⟩
    unfold DeadlineParams.alerted
    split
    exacts [hmodify _ _ fun _ => rfl, fun _ => rfl]

theorem setTask_setTask : (x.setTask k a).setTask k b = x.setTask k b := by simp [State.setTask]

/-- A completion whose run ended so keeps every line. -/
theorem Ends.complete_follows (hg : Ends now a x.lines.outputs b outs') (h : x.LinesFollow) (ho : x.OwnershipSound)
    (hstore : x.StoreSound) (ha : x.task? k = some a) (hrun : a.inRun = true) :
    ((midway x k b outs' reports).complete k now carry).st.LinesFollow := by
  obtain ⟨hstate, hfixed, howner⟩ := hg.keeps
  have hown : (midway x k b outs' reports).st.OwnershipSound :=
    ho.congr (fun _ => rfl) (fun l j r => by rw [midway_outputs, howner l]) (fixed_setTask ha hfixed)
  refine Machine.complete_follows midway_task? ?_ hown (fun i d hd => ?_) ?_
  · rw [hstate]
    exact inRun_iff.1 hrun
  · by_cases hi : i = k
    · subst hi
      cases midway_task?.symm.trans hd
      exact (hstore.playable ha).congr (congrArg Prod.snd hfixed)
    · exact hstore.playable ((midway_task?_ne hi).symm.trans hd)
  · have hset : (midway x k b outs' reports).st.setTask k (b.left .done) =
        (x.setTask k (b.left .done)).withOutputs outs' := by
      simp [midway, State.setTask, State.withOutputs]
    rw [hset]
    exact hg.follows h ho ha

theorem midway_base : midway (x.setTask k a) k b outs reports = midway x k b outs reports := by
  simp [midway]

/-- An engine's event keeps every line. -/
theorem Runs.follows (hr : Runs x k now a x.lines.outputs w) (h : x.LinesFollow) (ho : x.OwnershipSound)
    (hstore : x.StoreSound) (ha : x.task? k = some a₀) (hfixed : a.fixed = a₀.fixed)
    (hd : ∀ r y, a.drives x.segments r = some y → a₀.drives x.segments r = some y) (hrun : a.inRun = true) :
    w.st.LinesFollow := by
  have h' : (x.setTask k a).LinesFollow := h.setTask ho ha fun _ r _ => hd r
  have ho' := ho.setTask ha hfixed
  have hself : (x.setTask k a).task? k = some a := State.task?_setTask_self ..
  cases hr with
  | @goes b outs' reports hg =>
    have hfollows := GoesOn.follows (x := x.setTask k a) hg h' ho' hself hrun
    rwa [setTask_setTask] at hfollows
  | @ends b outs' reports carry hg =>
    rw [← midway_base (a := a)]
    exact Ends.complete_follows (x := x.setTask k a) hg h' ho' (hstore.setTask ha hfixed) hself hrun

/-! ### The lines, with what they depend on -/

/-- The lines show what their owners say, over a sound store and a sound claim map. -/
structure State.LinesSound (s : State) : Prop where
  store : s.StoreSound
  ownership : s.OwnershipSound
  lines : s.LinesFollow

theorem State.LinesSound.same (h : s.LinesSound) (hprog : t.programs = s.programs) (hslots : t.tasks.slots = s.tasks.slots)
    (hlines : t.lines = s.lines) : t.LinesSound where
  store := h.store.congr hprog fun j => by rw [State.task?, hslots]; rfl
  ownership := h.ownership.same hslots hlines
  lines := h.lines.congr (congrArg LineUnit.outputs hlines) hprog fun j => by rw [State.task?, hslots]; rfl

/-- What an event touches keeps the rest. -/
theorem State.LinesSound.touched {D : Slot → Prop} {L : OutLine → Prop} (h : s.LinesSound) (ht : Touches D L s t)
    (hlines : t.LinesFollow) : t.LinesSound := ⟨ht.store h.store, ht.ownership h.ownership, hlines⟩

theorem State.LinesFollow.offering {own free : List Offer} (h : s.LinesFollow) : (s.offering now own free).LinesFollow :=
  h.congr (congrArg LineUnit.outputs (State.offering_lines ..)) (State.offering_blocks ..).programs
    fun _ => State.offering_task? ..

theorem finish_follows (h : w.st.LinesFollow) : (w.finish now).LinesFollow := by
  rw [Work.finish_eq]
  exact h.offering

theorem drives_faulted {reason : FaultReason} {segments : Prog → List Segment} {r : OutRole} {y : Bool}
    (hy : ({ a with
      state := .faulted, held := false, clockDue := false, faultReason := some reason
      engine := a.engine.released } : Task).drives segments r = some y) : y = false := by
  cases r with
  | wave =>
    cases he : a.engine <;> simp only [Task.drives, he, Engine.released] at hy <;> cases hy
    rfl
  | mark => cases hy
  | alert =>
    cases he : a.engine <;> simp only [Task.drives, he, Engine.released] at hy <;> cases hy
    rfl

theorem State.LinesFollow.fault {reason : FaultReason} (h : s.LinesFollow) (ha : s.task? k = some a₀) :
    (s.fault k a reason).LinesFollow := by
  rw [State.fault_eq]
  exact h.rested ha fun r y hy => drives_faulted hy

theorem linesSound_turns : KeptByTurns State.LinesSound where
  offered _ _ _ _ _ h := h.same rfl rfl rfl
  faulted _ _ _ ha _ h :=
    h.touched (.fault (D := fun _ => True) (L := fun _ => True) ha trivial fun _ _ _ => trivial) (h.lines.fault ha)
  events _ _ h := h.same rfl rfl rfl

/-! ### An update, a task clock and an expiry -/

theorem drives_gated {n : Nat} {segments : Prog → List Segment} :
    ({ a.gated v with overrunCount := n } : Task).drives segments r = a.drives segments r := by
  obtain ⟨hstate, -, hengine, -⟩ := a.gated_keeps v
  exact drives_congr hengine hstate

/-- What a task reads of an update says the same of its lines. -/
theorem drives_reads {segments : Prog → List Segment} (hr : a.reads v = some b) :
    b.drives segments r = a.drives segments r := by
  obtain ⟨hstate, -, hengine, -⟩ := a.gated_keeps v
  rw [Task.reads_eq] at hr
  split at hr
  · cases hr
    exact drives_congr hengine hstate
  split at hr
  · cases hr
    have hrun : ({ a.gated v with engine := a.engine.releaseWait } : Task).inRun = a.inRun := by
      rw [Task.inRun, Task.inRun]
      exact congrArg (fun st => st == TaskState.running || st == TaskState.stopping) hstate
    cases r with
    | wave =>
      cases he : a.engine with
      | pulseTrain p q =>
        rw [drives_wave he, ← hrun, he]
        rfl
      | _ => simp only [Task.drives, he, Engine.releaseWait]
    | mark => rfl
    | alert => cases he : a.engine <;> simp only [Task.drives, he, Engine.releaseWait]
  split at hr
  · cases hr
    exact drives_congr hengine hstate
  · cases hr

theorem State.LinesSound.overrun (h : s.LinesSound) (ha : s.task? k = some a) :
    (s.tookUpdate k { a.gated v with overrunCount := sat16 a.overrunCount }).LinesSound := by
  have hdrop : (s.dropUpdate k).LinesSound := h.same rfl rfl rfl
  have hfixed : ({ a.gated v with overrunCount := sat16 a.overrunCount } : Task).fixed = a.fixed := by
    obtain ⟨-, hcommon, hengine, -⟩ := a.gated_keeps v
    exact Prod.ext hcommon (congrArg Engine.params hengine)
  exact ⟨hdrop.store.setTask (a := a) ha hfixed, hdrop.ownership.setTask (a := a) ha hfixed,
    hdrop.lines.setTask hdrop.ownership ha fun _ _ _ y hy => by rwa [drives_gated] at hy⟩

theorem UpdateTaken.follows (ht : UpdateTaken k v s a t) (h : s.LinesSound) (ha : s.task? k = some a) : t.LinesFollow := by
  have hdrop : (s.dropUpdate k).LinesSound := h.same rfl rfl rfl
  have htook : ∀ b, (s.tookUpdate k b).task? k = some b := State.task?_setTask_self (s.dropUpdate k) k
  have hleft : (s.tookUpdate k a).LinesFollow := hdrop.lines.setTask hdrop.ownership ha fun _ _ _ _ => id
  cases ht with
  | left => exact hleft
  | started =>
    exact (hleft.beginRun (hdrop.ownership.setTask (a := a) ha rfl) k (v.level s) v.time).offering
  | @worked b hs hr =>
    obtain ⟨hstate, hfixed⟩ := Task.reads_keeps hr
    have hrun : b.inRun = true := inRun_iff.2 (hstate ▸ hs)
    refine finish_follows ?_
    by_cases hworks : b.works = true
    · exact (workingEdges_ran (x := s.dropUpdate k) hworks).follows hdrop.lines hdrop.ownership hdrop.store ha hfixed
        (fun r y hy => by rwa [drives_reads hr] at hy) hrun
    · rw [workingEdges_rest (by simpa using hworks)]
      exact hdrop.lines.setTask hdrop.ownership ha fun _ r _ y hy => by rwa [drives_reads hr] at hy
  | restarted =>
    have hover := h.overrun (v := v) ha
    exact (hover.lines.beginRun hover.ownership k (v.level s) v.time).offering
  | faulted => exact ((h.overrun (v := v) ha).lines.fault (htook _)).offering

theorem State.LinesSound.takeUpdate (h : s.LinesSound) : (takeUpdate k v (s.dropUpdate k)).LinesSound := by
  have hdrop : (s.dropUpdate k).LinesSound := h.same rfl rfl rfl
  refine hdrop.touched (takeUpdate_leaves k v _).touches ?_
  cases ha : s.task? k with
  | none =>
    rw [takeUpdate_free (s := s.dropUpdate k) ha]
    exact hdrop.lines
  | some a => exact (updateTaken k v ha).follows h ha

theorem State.LinesSound.takeClock (h : s.LinesSound) (hf : s.clockFallen k = true) : (takeClock k s).LinesSound := by
  obtain ⟨a, ha, hworks, -⟩ := clockFallen_iff.1 hf
  obtain ⟨w, htake, hran⟩ := takeClock_ran ha
  refine h.touched (takeClock_leaves k s).touches ?_
  rw [htake]
  exact finish_follows (hran.follows h.lines h.ownership h.store ha rfl
    (fun r y hy => (drives_congr (b := { a with clockDue := false }) rfl rfl).symm.trans hy)
    (inRun_iff.2 (works_iff.1 hworks).1))

theorem State.LinesSound.takeExpiry (h : s.LinesSound) (hf : s.expiryFallen k = true) : (takeExpiry k s).LinesSound := by
  obtain ⟨a, b, outs, reports, carry, ha, hrun, hends, htake⟩ := takeExpiry_ends hf
  refine h.touched (takeExpiry_leaves k s).touches ?_
  rw [htake]
  exact finish_follows (hends.complete_follows h.lines h.ownership h.store ha hrun)

end Sys2Proof.Machine
end

section
/-! Every command keeps every output line as its owner says (R39, R40, R42 to R44, R52, R71, R133). -/

namespace Sys2Proof.Machine

variable {s t : State} {k j : Slot} {a b : Task} {now : Time} {l m : OutLine} {r : OutRole} {c : Instr} {p : Prog}
  {common : Common} {kind : KindParams}

/-! ### Lines changed by no task -/

/-- Some MARK pulses are cut, and nothing else of the lines is changed. -/
theorem State.LinesFollow.cut (h : s.LinesFollow) (hprog : t.programs = s.programs) (htask : ∀ j, t.task? j = s.task? j)
    (houts : ∀ l, t.lines.outputs.get l = s.lines.outputs.get l ∨
      (s.lines.outputs.get l).markEnd ≠ none ∧ t.lines.outputs.get l = (s.lines.outputs.get l).rest) : t.LinesFollow := by
  have hsegments : t.segments = s.segments := State.segments_congr hprog
  refine ⟨fun l hl => ?_, fun l k r a hl ha => ?_⟩
  · rcases houts l with he | ⟨hmark, he⟩
    · rw [he] at hl ⊢
      exact h.free l hl
    · rw [he] at hl
      exact absurd (h.free l hl).1 hmark
  · rw [htask] at ha
    rw [hsegments]
    rcases houts l with he | ⟨hmark, he⟩
    · rw [he] at hl ⊢
      exact h.owned l k r a hl ha
    · rw [he] at hl ⊢
      refine follows_rest fun y hy => ?_
      by_cases hr : r = .mark
      · subst hr
        cases hy
      · exact absurd ((h.owned l k r a hl ha).unmarked hr) hmark

/-- One line that no task owns, before and after. -/
theorem State.LinesFollow.onOutput {f : Output → Output} (h : s.LinesFollow)
    (hfree : ∀ k r, (s.lines.outputs.get m).owner ≠ .task k r) (hf : ∀ k r, (f (s.lines.outputs.get m)).owner ≠ .task k r)
    (hmark : (s.lines.outputs.get m).markEnd = none → (f (s.lines.outputs.get m)).markEnd = none)
    (hlevel : (f (s.lines.outputs.get m)).owner = .none →
      (f (s.lines.outputs.get m)).level = (f (s.lines.outputs.get m)).idle) : (s.onOutput m f).LinesFollow := by
  refine ⟨fun l hl => ?_, fun l k r a hl ha => ?_⟩
  · by_cases hlm : l = m
    · subst hlm
      rw [State.onOutput_outputs, Bank.get_modify_self]
      exact ⟨hmark (h.free l hfree).1, hlevel⟩
    · rw [State.onOutput_outputs, Bank.get_modify_ne _ _ hlm] at hl ⊢
      exact h.free l hl
  · by_cases hlm : l = m
    · subst hlm
      rw [State.onOutput_outputs, Bank.get_modify_self] at hl
      exact absurd hl (hf k r)
    · rw [State.onOutput_outputs, Bank.get_modify_ne _ _ hlm] at hl ⊢
      exact h.owned l k r a hl ha

theorem State.LinesFollow.host (h : s.LinesFollow) (active : Bool) (hfree : (s.lines.outputs.get m).taskOwned = false) :
    (s.onOutput m (Output.host active)).LinesFollow :=
  h.onOutput (not_owned_of_taskOwned hfree) nofun (fun hm => hm) nofun

/-! ### Tasks freed, defined and deleted -/

/-- No slot holds a task, and each line a task owned is given up. -/
theorem State.LinesFollow.freed (h : s.LinesFollow) (htask : ∀ j, t.task? j = none)
    (houts : ∀ l, t.lines.outputs.get l =
      if (s.lines.outputs.get l).taskOwned then (s.lines.outputs.get l).release else s.lines.outputs.get l) :
    t.LinesFollow := by
  refine ⟨fun l _ => ?_, fun l k r a _ ha => ?_⟩
  · rw [houts l]
    split
    · exact ⟨rfl, fun _ => rfl⟩
    next hfree => exact h.free l (not_owned_of_taskOwned (by simpa using hfree))
  · rw [htask k] at ha
    cases ha

theorem drives_defined {segments : Prog → List Segment} {y : Bool}
    (hy : (definedTask s common kind).drives segments r = some y) : y = false := by
  cases r with
  | wave =>
    cases kind <;> simp only [Task.drives, definedTask, KindParams.defined] at hy <;> cases hy
    rfl
  | mark => cases hy
  | alert =>
    cases kind <;> simp only [Task.drives, definedTask, KindParams.defined] at hy <;> cases hy
    rfl

theorem State.LinesFollow.define (h : s.LinesFollow) (ho : s.OwnershipSound) (hk : s.task? k = none)
    (hnodup : ((outputsOf common kind).map Prod.fst).Nodup) (hout : s.outputsFree (outputsOf common kind) = true) :
    (s.define k common kind).LinesFollow := by
  have hsegments : (s.define k common kind).segments = s.segments := segments_of_content fun q => by
    rw [State.define_programs, State.recount_programs]
  have hleft : ∀ l, l ∉ (outputsOf common kind).map Prod.fst →
      (s.define k common kind).lines.outputs.get l = s.lines.outputs.get l := fun l => s.define_outputs_other k common kind
  refine ⟨fun l hl => ?_, fun l j r b hl hb => ?_⟩
  · have hnot : l ∉ (outputsOf common kind).map Prod.fst := fun hmem => by
      obtain ⟨⟨l', r⟩, hnamed, rfl⟩ := List.mem_map.1 hmem
      rw [State.define_outputs_named s k common kind hnodup hnamed] at hl
      exact hl k r rfl
    rw [hleft l hnot] at hl ⊢
    exact h.free l hl
  · rw [hsegments]
    rw [State.task?_define] at hb
    rcases (State.define_owner s k hnodup hout).1 hl with ⟨rfl, hmem⟩ | howner
    · rw [if_pos rfl] at hb
      cases hb
      have hnone : (s.lines.outputs.get l).owner = .none := by simpa using List.all_eq_true.1 hout _ hmem
      obtain ⟨hmark, hlevel⟩ := h.free l fun k r => by rw [hnone]; nofun
      rw [State.define_outputs_named s j common kind hnodup hmem]
      exact {
        level := fun y hy => by simp [drives_defined hy, hlevel hnone]
        marked := fun _ => by simp [hmark, hlevel hnone]
        unmarked := fun _ => hmark }
    · have hj : j ≠ k := by
        rintro rfl
        obtain ⟨d, hd, -⟩ := ho.record howner
        rw [hk] at hd
        cases hd
      rw [if_neg hj] at hb
      rw [hleft l fun hmem => ?_]
      · exact h.owned l j r b howner hb
      · obtain ⟨⟨l', r'⟩, hnamed, rfl⟩ := List.mem_map.1 hmem
        have hnone : (s.lines.outputs.get l').owner = .none := by simpa using List.all_eq_true.1 hout _ hnamed
        rw [hnone] at howner
        cases howner

theorem State.LinesFollow.delete (h : s.LinesFollow) : (s.delete k a).LinesFollow := by
  have hsegments : (s.delete k a).segments = s.segments := segments_of_content fun q => by
    rw [State.delete_programs, State.recount_programs]
  refine ⟨fun l hl => ?_, fun l j r b hl hb => ?_⟩
  · rw [State.delete_outputs] at hl ⊢
    by_cases howned : (s.lines.outputs.get l).ownedBy k = true
    · rw [if_pos howned]
      exact ⟨rfl, fun _ => rfl⟩
    · rw [if_neg howned] at hl ⊢
      exact h.free l hl
  · rw [hsegments]
    rw [State.delete_outputs] at hl ⊢
    rw [State.task?_delete] at hb
    by_cases howned : (s.lines.outputs.get l).ownedBy k = true
    · rw [if_pos howned] at hl
      cases hl
    · rw [if_neg howned] at hl ⊢
      split at hb
      · cases hb
      · exact h.owned l j r b hl hb

/-! ### Programs (R65) -/

/-- A program that no task names is given another content. -/
theorem State.LinesSound.onProgram {f : Program → Program} (h : s.LinesSound) (hp : (s.programs.get p).refCount = 0) :
    (s.onProgram p f).LinesFollow := by
  refine ⟨h.lines.free, fun l k r a hl ha => (h.lines.owned l k r a hl ha).mono fun y hy => ?_⟩
  cases r with
  | wave =>
    cases he : a.engine with
    | pulseTrain q x =>
      have hne : q.program ≠ p := by
        intro e
        have hnames : s.names k p = true := names_iff.2 ⟨a, ha, by rw [he, ← e]; rfl⟩
        rw [h.store.unnamed hp k] at hnames
        cases hnames
      have hsegments : (s.onProgram p f).segments q.program = s.segments q.program := by
        simp [State.segments, State.onProgram, hne]
      rw [drives_wave he] at hy ⊢
      rwa [hsegments] at hy
    | _ => simp only [Task.drives, he] at hy; cases hy
  | mark => cases hy
  | alert => exact hy

/-! ### Requests on a slot -/

theorem State.LinesFollow.arm (h : s.LinesFollow) (ho : s.OwnershipSound) (ha : s.task? k = some a)
    (hs : a.state.inRun = false) : ((s.setTask k a.armed).driveOpt a.engine.alertLine? false).LinesFollow := by
  cases he : a.engine with
  | deadline p q =>
    have hdrive : (s.setTask k a.armed).driveOpt p.alert false =
        (s.setTask k a.armed).withOutputs (p.alerted false s.lines.outputs) := by
      unfold State.driveOpt DeadlineParams.alerted
      cases p.alert <;> rfl
    have harmed : a.armed.engine = .deadline p { q with expiryDue := false, alert := false } := by
      simp only [Task.armed, he, Engine.armed, Engine.released]
    exact hdrive ▸ h.alerted ho ha he harmed rfl
  | pulseTrain p q =>
    refine h.setTask ho ha fun l r _ y hy => ?_
    have harmed : a.armed.engine = a.engine := by simp only [Task.armed, he, Engine.armed]
    rwa [drives_of_inRun harmed (inRun_of_state rfl hs).symm] at hy
  | _ =>
    refine h.setTask ho ha fun l r _ y hy => ?_
    rw [drives_silent (by simp [Task.armed, he, Engine.armed]) (by simp [Task.armed, he, Engine.armed])] at hy
    cases hy

theorem drives_disarmed {segments : Prog → List Segment} {y : Bool} (hy : a.disarmed.drives segments r = some y) :
    y = false :=
  drives_faulted (a := a) (reason := .reportLost) ((drives_of_inRun rfl rfl).trans hy)

theorem State.LinesSound.startSlots {members : List Slot} {cause : StartCause} (h : s.LinesSound) (hnodup : members.Nodup) :
    (Machine.startSlots members cause s).LinesSound := by
  refine h.touched (startSlots_leaves members cause s).touches ?_
  have hl := startSlots_leave hnodup cause s
  obtain ⟨-, -, -, -, -, -, hprog, -⟩ := foldl_beginRun_frame s s.timebase.time members
  refine (h.lines.foldl_beginRun h.ownership members s.timebase.time).congr hl.outputs (hl.blocks.programs.trans hprog.symm)
    fun j => ?_
  rw [foldl_beginRun_task? _ _ _ _ hnodup]
  split
  next hj => exact hl.begun j hj
  next hj => exact hl.others j hj

theorem State.LinesSound.endRun {ending : Ending} (h : s.LinesSound) (ha : s.task? k = some a) :
    (Machine.endRun k a ending s).LinesSound := by
  refine h.touched (endRun_leaves ending ha).touches (finish_follows ?_)
  have hidle : ((s.setTask k (a.left .done)).idleWave a.engine).LinesFollow := by
    cases he : a.engine with
    | pulseTrain p q =>
      have hdone : (a.left .done).engine = .pulseTrain p q := by simp only [Task.left, he, Engine.ended]
      exact h.lines.waveIdle h.ownership ha he hdone rfl
    | deadline p q =>
      refine h.lines.setTask h.ownership ha fun l r _ y hy => ?_
      cases r with
      | wave => simp only [Task.drives, Task.left, he, Engine.ended] at hy; cases hy
      | mark => cases hy
      | alert => rwa [(drives_ended rfl).1] at hy
    | _ =>
      refine h.lines.setTask h.ownership ha fun l r _ y hy => ?_
      rw [drives_silent (by simp [Task.left, he, Engine.ended]) (by simp [Task.left, he, Engine.ended])] at hy
      cases hy
  have hoffer : ∀ w : Work, (w.offer k (.taskDone ending a.engine.principal a.runCount a.overrunCount)).st = w.st :=
    fun _ => rfl
  rw [hoffer]
  exact hidle

theorem Served.lines (hv : Served c s t) (h : s.LinesSound) : t.LinesFollow := by
  induction hv with
  | settled _ ih => exact ih (linesSound_turns.settle h)
  | tasksFreed s =>
    refine h.lines.freed (fun j => by simp [freeAllSlots, State.task?]) fun l => ?_
    simp [freeAllSlots]
  | timeRestarted s rate =>
    refine h.lines.cut rfl (fun _ => rfl) fun l => ?_
    simp only [State.restartTime, Bank.get_map, Output.cutMark]
    cases (s.lines.outputs.get l).markEnd with
    | none => exact .inl rfl
    | some x => exact .inr ⟨nofun, rfl⟩
  | inputConfigured s l pol n => exact h.lines.congr rfl rfl fun _ => rfl
  | outputConfigured s l idle howner =>
    exact h.lines.onOutput (by simp [howner]) (by simp [Output.configure, howner]) (fun hm => hm) fun _ => rfl
  | outputActive s l howner => exact h.lines.host true howner
  | outputIdle s l howner => exact h.lines.host false howner
  | outputReleased s l howner => exact h.lines.onOutput (not_owned_of_taskOwned howner) nofun (fun _ => rfl) fun _ => rfl
  | loaded s p final segments hf hp => exact h.onProgram hp
  | appended s p final segments hf hstate =>
    refine h.onProgram ?_
    by_contra hne
    rw [h.store.inUseSealed p hne] at hstate
    cases hstate
  | erased s p hp => exact h.onProgram hp
  | defined s k common kind hf hk _ hout =>
    exact h.lines.define h.ownership hk (recordAllowed_of_recordOf? hf).outputs hout
  | deleted s k a => exact h.lines.delete
  | armed s k a hk hrest => exact h.lines.arm h.ownership hk (inRun_of_atRest hrest)
  | disarmed s k a hk => exact h.lines.rested hk fun r y hy => drives_disarmed hy
  | started s k => exact (linesSound_turns.endEventsOf _ (h.startSlots (List.nodup_singleton k))).lines
  | groupStarted s slots turns hnodup =>
    exact (linesSound_turns.endEventsOf _ (linesSound_turns.takeTurns turns (h.startSlots hnodup))).lines
  | stopping s k a hk hs =>
    refine h.lines.setTask h.ownership hk fun l r _ y hy => ?_
    have hrun : a.inRun = true := inRun_iff.2 (.inl hs)
    exact (drives_of_inRun (a := a) (b := { a with state := .stopping }) rfl hrun.symm).symm.trans hy
  | runEnded s k a ending hk => exact (linesSound_turns.endEventsOf _ (h.endRun hk)).lines
  | positionSet s k a p q x hk he =>
    refine h.lines.setTask h.ownership hk fun l r _ y hy => ?_
    have hsilent := drives_silent (a := { a with engine := .position p { q with position := x } }) nofun nofun
      (segments := s.segments) (r := r)
    rw [hsilent] at hy
    cases hy
  | _ => exact h.lines.congr rfl rfl fun _ => rfl

/-! ### The commands -/

theorem drives_ticked {segments : Prog → List Segment} : a.ticked.drives segments r = a.drives segments r := by
  unfold Task.ticked
  split
  · split
    · split <;> exact drives_congr rfl rfl
    · rfl
  · rfl

theorem Happens.lines (hv : Happens c s t) (hstore : s.StoreSound) (ho : s.OwnershipSound)
    (h : s.inReset = none → s.LinesFollow) (hr : t.inReset = none) : t.LinesFollow := by
  have hsound : s.inReset = none → s.LinesSound := fun hs => ⟨hstore, ho, h hs⟩
  induction hv with
  | nothing => exact h hr
  | @settled _ s _ _ ih =>
    have hinReset : s.settle.inReset = s.inReset := s.settle_outside.blocks.inReset
    have hsettled : s.settle.inReset = none → s.settle.LinesSound := fun hs =>
      linesSound_turns.settle (hsound (hinReset.symm.trans hs))
    exact ih hstore.settle ho.settle (fun hs => (hsettled hs).lines) hr hsettled
  | @request _ s e _ f rest _ _ ht _ _ hserved =>
    have he : e.LinesFollow := hserved.lines ((hsound ht.outOfReset).same rfl rfl rfl)
    exact he.congr rfl rfl fun _ => rfl
  | @arbitrated _ s =>
    obtain ⟨htasks, hlines, hprog, hinReset⟩ := arbitrate_left s
    exact (h (hinReset.symm.trans hr)).congr (congrArg LineUnit.outputs hlines) hprog fun j => by
      rw [State.task?, htasks]
      rfl
  | reset s cause straps =>
    refine ⟨fun l _ => by simp [resetTo, Output.reset], fun l k r a hl => ?_⟩
    simp [resetTo, Output.reset] at hl
  | cut => cases hr
  | sampled levels hs => exact (h hs).congr rfl rfl fun _ => rfl
  | @ticked s hs =>
    refine ⟨(h hs).free, fun l k r b hl hb => ?_⟩
    rw [State.task?, Bank.get_map] at hb
    obtain ⟨a, ha, rfl⟩ := Option.map_eq_some_iff.1 hb
    exact ((h hs).owned l k r a hl ha).mono fun y hy => by rwa [drives_ticked] at hy
  | @pulseEnded s l hs hmark =>
    refine (h hs).cut rfl (fun _ => rfl) fun i => ?_
    by_cases hi : i = l
    · subst hi
      exact .inr ⟨by rw [hmark]; nofun, by simp⟩
    · exact .inl (by simp [hi])
  | turned turns hs => exact (linesSound_turns.takeTurns turns (hsound hs)).lines
  | updated k turns hs => exact (linesSound_turns.takeTurns turns (hsound hs).takeUpdate).lines
  | clocked k turns hs hf => exact (linesSound_turns.takeTurns turns ((hsound hs).takeClock hf)).lines
  | expired k turns hs hf => exact (linesSound_turns.takeTurns turns ((hsound hs).takeExpiry hf)).lines
  | _ => exact (h hr).congr rfl rfl fun _ => rfl

/-- Settles O56: only a definition and a deletion change claims and owners of tasks, and every event that changes what a task
says of a line it owns redraws the line. -/
theorem everyStepKeepsClaimsOwnersAndLevelsSound : Obligations.EveryStepKeepsClaimsOwnersAndLevelsSound := by
  intro s t ho hstep
  have hownership : t.OwnershipSound := step_keeps (P := State.OwnershipSound) (fun _ _ h => h.same rfl rfl)
    (fun _ _ _ hv => hv.ownership) ho hstep
  refine ⟨hownership, fun hstore houts hr => ?_⟩
  have hkept := step_keeps
    (P := fun s => s.StoreSound ∧ s.OwnershipSound ∧ (s.inReset = none → s.LinesFollow))
    (fun _ _ ⟨hstore, ho, h⟩ => ⟨hstore.congr rfl fun _ => rfl, ho.same rfl rfl, fun hs => (h hs).congr rfl rfl fun _ => rfl⟩)
    (fun _ _ _ hv ⟨hstore, ho, h⟩ => ⟨hv.store_sound hstore, hv.ownership ho, hv.lines hstore ho h⟩)
    ⟨hstore, ho, fun hs => (outputsSound_iff ho).1 (houts hs)⟩ hstep
  obtain ⟨-, -, hlines⟩ := hkept
  exact (outputsSound_iff hownership).2 (hlines hr)

end Sys2Proof.Machine
end
